-- ==== Sys2Proof/Word.lean ====
section
/-!
DEFINITION. The words of the part: the 32-bit word of section 0.8, the byte-sized frame fields of R214 and R215,
and the indices of its fixed tables.
-/

namespace Sys2Proof

/-- A word: 32 bits, four bytes (0.8 Words and byte order). Counters are words too: each is 32 bits and wraps (R213). -/
abbrev Word := BitVec 32

/-- A one-byte field of a frame (R214, R215). -/
abbrev Byte := BitVec 8

/-- An upstream tag, 0 to 63 (0.7), and the tag field of a REPLY on any link (R190). -/
abbrev UTag := BitVec 6

/-- A branch tag, 0 to 15 (0.7). -/
abbrev BTag := BitVec 4

/-- A branch, B0 to B3 (0.7). -/
abbrev Branch := Fin 4

/-- A position on a branch chain, 0 to 7 (R87). -/
abbrev Position := Fin 8

/-- The number of a window entry (R4). -/
abbrev WindowIx := Fin 32

/-- The number of a pending entry (R61). -/
abbrev EntryIx := Fin 32

/-- The self cause set as software sees it: 17 bits, numbered by the last table of R212. -/
abbrev CauseSet := BitVec 17

/-- A time or a deadline, in microseconds of the reference clock (0.8 Time; assumption 1). -/
abbrev Time := Nat

end Sys2Proof
end

