-- ==== Sys2Proof/Config.lean ====
section
/-!
DEFINITION. What the part fixes: the capacities and times of section 0.9, each with the rule that states it, and the
free values, which the spec leaves open. A free value has no body, so that no proof can rest on it.
-/

namespace Sys2Proof.Config

/-- Places of the ingress buffer (R19). -/
def ingressPlaces : Nat := 16

/-- Reply slots of the egress queue (R24, R176). -/
def replySlots : Nat := 64

/-- Places of the management unit's input queue (R201). -/
def managementPlaces : Nat := 2

/-- Slots of a forward queue (R43). -/
def forwardSlots : Nat := 8

/-- Bytes of the management block (R3). -/
def managementBytes : Nat := 4096

/-- Bad frames in a row at which a port leaves UP (R187). -/
def badRunLimit : Nat := 3

/-- The largest transmit credit of a branch port (R192). -/
def creditMax : Nat := 255

/-- The most data words a frame of any kind carries (R187, R188). -/
def maxWords : Nat := 16

/-- The bytes between the delimiters of the longest frame: a WRITE or POST with 16 data words (R187, R214). -/
def maxFrameBytes : Nat := 73

/-- The training attempt timer: 2 ms (R183). -/
def trainingAttempt : Time := 2000

/-- The quiet re-listen timer: 1 ms (R196). -/
def quietRelisten : Time := 1000

/-- The identify timer: 2 ms (R100, R102). -/
def identifyTimer : Time := 2000

/-- The wake timer: 20 ms (R136). -/
def wakeTimer : Time := 20000

/-- The unit of a reply timeout: 10 µs (R142). -/
def replyTimeoutUnit : Time := 10

/-- The unit of an orphan hold: 100 µs (R142). -/
def orphanHoldUnit : Time := 100

/-- The unit of the re-present interval: 1 ms (R155). -/
def intervalUnit : Time := 1000

/-- The re-present interval after a reset (R155, R163). -/
def intervalDefault : Nat := 50

/-- The class of the part's DESCRIPTOR (R166). -/
def descriptorClass : BitVec 16 := 0x0C24

/-- FREE VALUE (assumption 3). At one happening that places REPLYs of a branch event and also makes a presentation,
whether the ATTENTION frame enters the egress queue ahead of those REPLYs: R58 and R81 order the REPLYs among
themselves only. It is applied to the model's own counter State.choices, so each happening has a choice of its own. -/
opaque noticesFirst : Nat → Bool

/-- FREE VALUE (assumption 4). Whether a management READ that covers the reads counter returns it with that READ
already counted: R204 says that the counter counts the READ, and not whether the word returned shows it. -/
opaque readShowsItself : Bool

end Sys2Proof.Config
end

