-- ==== Sys2Proof/Syntax.lean ====
section
/-!
DEFINITION. The commands: one constructor of Instr for each row of spec/opcode_table.json, with the fields the
happening carries in from outside the part (a frame's fields, a port, a branch, the number of a table entry).
-/

namespace Sys2Proof

/-- The kinds of a tagged request (0.7): each is answered by one REPLY. -/
inductive TaggedKind where
  | read
  | write
  | swap
  deriving DecidableEq, Repr

/-- What kind of request a frame is, with the upstream tag that a READ, WRITE or SWAP carries and a POST does not
(R197, R214). -/
inductive ReqHeader where
  | tagged (kind : TaggedKind) (tag : UTag)
  | post
  deriving DecidableEq, Repr

/-- The five link ports (R182). -/
inductive Port where
  | u
  | branch (b : Branch)
  deriving DecidableEq, Repr

/-- The flags of a DESCRIPTOR (R91, R214). -/
structure MemberFlags where
  attentionCapable : Bool
  sleepCapable : Bool
  concentrator : Bool
  deriving DecidableEq, Repr

/-- The kinds that travel only toward a master, which the U port discards (R167). -/
inductive TowardKind where
  | descriptor
  | empty
  | assigned
  | attention
  | chainbreak
  | chainmend
  | reply
  deriving DecidableEq, Repr

/-- The kinds that travel away from a master, which a branch port discards (R190). -/
inductive AwayKind where
  | read
  | write
  | swap
  | post
  | identify
  | assign
  | release
  | clear
  | hush
  deriving DecidableEq, Repr

/-- The commands, in the order of spec/opcode_table.json. -/
inductive Instr where
  /-- POWER_ON_RESET (R175): the levels of the strap pins at the happening, true for high (R200). -/
  | powerOnReset (span1 span0 : Bool)
  /-- RESET_ASSERTED (R175). -/
  | resetAsserted
  /-- REQUEST_FRAME (R19): a good READ, WRITE, SWAP or POST arrives on U. -/
  | requestFrame (hdr : ReqHeader) (addr : Word) (count : Byte) (data : List Word)
  /-- U_CREDIT_SENT (R20). -/
  | uCreditSent
  /-- CLASSIFIER_TAKE (R25). -/
  | classifierTake
  /-- U_IDENTIFY (R168). -/
  | uIdentify
  /-- U_ASSIGN (R168). -/
  | uAssign (base : Word)
  /-- U_RELEASE (R169). -/
  | uRelease (base : Word)
  /-- U_CLEAR (R171). -/
  | uClear
  /-- U_HUSH (R170). -/
  | uHush
  /-- U_UNEXPECTED_FRAME (R167). -/
  | uUnexpectedFrame (kind : TowardKind)
  /-- U_CREDIT_RECEIVED (R189). -/
  | uCreditReceived (increment : Byte)
  /-- EGRESS_FRAME_SENT (R177). -/
  | egressFrameSent
  /-- BAD_FRAME (R187). -/
  | badFrame (p : Port)
  /-- FAR_END_TRAINS (R184). -/
  | farEndTrains (p : Port)
  /-- LOSS_OF_SIGNAL (R184). -/
  | lossOfSignal (p : Port)
  /-- UNKNOWN_FRAME_DISCARDED (R188). -/
  | unknownFrameDiscarded (p : Port)
  /-- BRANCH_AWAY_FRAME (R190). -/
  | branchAwayFrame (b : Branch) (kind : AwayKind)
  /-- TRAINING_ATTEMPT_TIMEOUT (R183). -/
  | trainingAttemptTimeout (p : Port)
  /-- LINK_ENTERS_UP (R183). -/
  | linkEntersUp (p : Port)
  /-- WAKE_TAKEN (R196). -/
  | wakeTaken (p : Port)
  /-- QUIET_RELISTEN_TIMEOUT (R196): whether the far end is still signalling. -/
  | quietRelistenTimeout (b : Branch) (stillSignalling : Bool)
  /-- CREDIT (R192). -/
  | credit (b : Branch) (increment : Byte)
  /-- ISSUE (R44). -/
  | issue (b : Branch)
  /-- AGE_DEADLINE_EXPIRY (R53): the next age deadline of the branch's forward queue runs out. -/
  | ageDeadlineExpiry (b : Branch)
  /-- REPLY (R65): the tag, the status number, the detail and the data words, as received. -/
  | reply (b : Branch) (tag : UTag) (status : Byte) (detail : Byte) (data : List Word)
  /-- REPLY_DEADLINE_EXPIRY (R70). -/
  | replyDeadlineExpiry (e : EntryIx)
  /-- ORPHAN_DEADLINE_EXPIRY (R71). -/
  | orphanDeadlineExpiry (e : EntryIx)
  /-- DESCRIPTOR (R102): the five fields of R91. -/
  | descriptor (b : Branch) (cls : BitVec 16) (identity : Word) (sizeExp : Byte) (flags : MemberFlags) (hop : Byte)
  /-- ASSIGNED (R103). -/
  | assigned (b : Branch) (hop : Byte)
  /-- EMPTY (R104). -/
  | empty (b : Branch) (hop : Byte)
  /-- IDENTIFY_TIMER_EXPIRY (R105). -/
  | identifyTimerExpiry (b : Branch)
  /-- CHAINBREAK (R112). -/
  | chainbreak (b : Branch) (hop : Byte)
  /-- CHAINMEND (R114). -/
  | chainmend (b : Branch) (hop : Byte)
  /-- ATTENTION (R150). -/
  | attention (b : Branch) (code : Byte) (hop : Byte)
  /-- BRANCH_CLEAR_SENT (R127). -/
  | branchClearSent (b : Branch)
  /-- HUSH_SENT (R194). -/
  | hushSent (b : Branch)
  /-- DRAIN_COMPLETE (R130). -/
  | drainComplete (b : Branch)
  /-- WAKE_TIMER_EXPIRY (R138). -/
  | wakeTimerExpiry (b : Branch)
  /-- RE_PRESENT_TIMER_EXPIRY (R155). -/
  | rePresentTimerExpiry
  /-- MANAGEMENT_READ (R204). -/
  | managementRead
  /-- MANAGEMENT_WRITE (R205). -/
  | managementWrite
  /-- WINDOW_ENTRY_WRITE (R8). -/
  | windowEntryWrite
  /-- CONFIGURATION_WRITE (R143). -/
  | configurationWrite
  /-- RE_PRESENT_INTERVAL_WRITE (R155). -/
  | rePresentIntervalWrite
  /-- MANAGEMENT_SWAP (R207). -/
  | managementSwap
  /-- ENUMERATE (R98). -/
  | enumerate
  /-- RELEASE (R110). -/
  | release
  /-- BRANCH_RESET (R140). -/
  | branchReset
  /-- DORMANT (R128). -/
  | dormant
  /-- WAKE (R132). -/
  | wake
  /-- NOTICE_ACK (R158). -/
  | noticeAck
  /-- CLEAR_COUNTERS (R209). -/
  | clearCounters
  /-- BRANCH_FRAME_SENT (R191). -/
  | branchFrameSent (b : Branch)
  /-- U_MEMBER_FRAME_SENT (R167). -/
  | uMemberFrameSent
  deriving DecidableEq, Repr

end Sys2Proof
end

