-- ==== Sys2Proof/Decode.lean ====
section
/-!
DEFINITION. The host's reading of a table word. No row of spec/opcode_table.json gives bits ("fields" is empty in all
55 rows, and no row has a match and mask), so no word spells a command: commands reach the part as frames, signals and
timer expiries, not as words.
-/

namespace Sys2Proof

/-- The command that a word of nbits bits spells by the table's bits: none, since the table gives no row any bits
(assumption 2). -/
def decodeTableWord (_nbits _w : Nat) : Option Instr :=
  none

end Sys2Proof
end

