-- ==== Sys2Proof/Machine/State.lean ====
section
/-!
DEFINITION. Everything the spec gives the part to hold (section 0.3 lists the owners), as plain data, and the state after
reset. A field that the spec calls absent in a state is not there in that state's constructor.
-/

namespace Sys2Proof.Machine

open Sys2Proof

/-- The states of a link (R182). -/
inductive LinkState where
  | off
  | training
  | up
  | quiet
  deriving DecidableEq, Repr

/-- The statuses of a REPLY (R198). -/
inductive Status where
  | ok
  | fault
  | noroute
  | denied
  | bounds
  | malformed
  | absent
  | busy
  | lost
  | timeout
  | flushed
  | badreply
  | refused
  | partialWrite
  | badentry
  | readonly
  deriving DecidableEq, Repr

/-- The counters every link port keeps (R199). -/
structure PortCounters where
  badFrames : Word
  discarded : Word
  trainingAttempts : Word
  creditOverflow : Word
  deriving DecidableEq, Repr

/-- What every link port holds (R182). A timer that runs holds the time at which it runs out. -/
structure LinkPort where
  link : LinkState
  badRun : Nat
  attemptTimer : Option Time
  relistenTimer : Option Time
  counters : PortCounters
  deriving DecidableEq, Repr

/-- The fields of the DESCRIPTOR the part sends upward (R166). -/
structure OwnDescriptor where
  cls : BitVec 16
  identity : Word
  sizeExp : Nat
  flags : MemberFlags
  hop : Byte
  deriving DecidableEq, Repr

/-- A frame the upstream member logic hands to the U port (R167). EMPTY and ASSIGNED carry hop count 0 (R168). -/
inductive MemberFrame where
  | descriptor (d : OwnDescriptor)
  | empty (hop : Byte)
  | assigned (hop : Byte)
  deriving DecidableEq, Repr

/-- A member frame handed to the U port and not yet sent, with whether a CREDIT was due and not yet begun when it was handed: such
a CREDIT leaves before it (R167, R191). -/
structure HandedFrame where
  frame : MemberFrame
  afterCredit : Bool
  deriving DecidableEq, Repr

/-- A frame that the U port has begun to send (R191). A CREDIT holds the increment it was begun with: credit that falls due
while it is being sent is carried by the next (R20). A member frame is the head of the frames handed, an egress frame the head
of the egress queue. -/
inductive USending where
  | credit (increment : Nat)
  | member
  | egress
  deriving DecidableEq, Repr

/-- The U port (R182): the common part, the receive credit of R20, the member frames handed and not yet sent, and the frame
begun and not yet sent to its end, which a HUSH does not cut off (R191, R194). The frame begun is recorded where a later
happening could put another in its place (assumption 14). -/
structure UPort where
  port : LinkPort
  granted : Nat
  owed : Nat
  unsent : List HandedFrame
  sending : Option USending
  deriving DecidableEq, Repr

/-- A frame handed to a branch port (R50, R197). A request carries the branch tag, the translated address, the count and
the data words. A CLEAR is either the first frame of a link that came UP (R127) or the one a BRANCH-RESET hands (R141). -/
inductive BranchFrame where
  | tagged (kind : TaggedKind) (tag : BTag) (addr : Word) (count : Nat) (data : List Word)
  | post (addr : Word) (count : Nat) (data : List Word)
  | identify
  | assign (base : Word)
  | release (base : Word)
  | clear
  | resetClear
  | hush
  deriving DecidableEq, Repr

/-- A request as it arrived on U, with every field of the frame (R19). -/
structure Request where
  hdr : ReqHeader
  addr : Word
  count : Byte
  data : List Word
  deriving DecidableEq, Repr

/-- A request in the management unit's input queue (R201). -/
structure MgmtRequest where
  hdr : ReqHeader
  offset : Nat
  count : Nat
  data : List Word
  deriving DecidableEq, Repr

/-- The rights of a window entry (R4): any subset of the four request kinds. -/
structure Rights where
  read : Bool
  write : Bool
  post : Bool
  swap : Bool
  deriving DecidableEq, Repr

/-- A window entry (R4). -/
structure Window where
  valid : Bool
  offset : Word
  sizeExp : Byte
  branch : Branch
  target : Word
  rights : Rights
  hits : Word
  deriving DecidableEq, Repr

/-- A slot of a forward queue (R38, R43). -/
structure Slot where
  hdr : ReqHeader
  addr : Word
  count : Nat
  data : List Word
  position : Position
  window : WindowIx
  ageDeadline : Time
  deriving DecidableEq, Repr

/-- The fields a pending entry holds in WAITING and in ORPHANED alike (R61). -/
structure Carried where
  branch : Branch
  tag : BTag
  kind : TaggedKind
  position : Position
  count : Nat
  deriving DecidableEq, Repr

/-- A pending entry (R61). -/
inductive PendingEntry where
  | free
  | waiting (c : Carried) (utag : UTag) (deadline : Time)
  | orphaned (c : Carried) (deadline : Time) (reported : Status)
  deriving DecidableEq, Repr

/-- What a DESCRIPTOR says of a member (R91), as its record holds it. -/
structure Member where
  cls : BitVec 16
  identity : Word
  sizeExp : Byte
  flags : MemberFlags
  deriving DecidableEq, Repr

/-- An attachment record (R92). -/
inductive Record where
  | vacant
  | identified (m : Member) (base : Word)
  | unplaced (m : Member)
  | assigned (m : Member) (base : Word)
  | lost (m : Member) (base : Option Word)
  deriving DecidableEq, Repr

/-- The phase of a running enumeration, with the working position of an assign phase (R97). -/
inductive EnumPhase where
  | identify
  | assign (p : Position)
  deriving DecidableEq, Repr

/-- The enumeration state of a branch; the identify timer runs only while RUNNING (R97). -/
inductive Enumeration where
  | idle
  | running (phase : EnumPhase) (deadline : Time)
  deriving DecidableEq, Repr

/-- The outcome of the last enumeration (R97). -/
inductive EnumOutcome where
  | none
  | done
  | tooMany
  | conflict
  | poolExhausted
  | noAnswer
  | aborted
  deriving DecidableEq, Repr

/-- The state of a branch; the wake timer runs only while WAKING (R122). -/
inductive BranchState where
  | down
  | active
  | draining
  | dormant
  | waking (deadline : Time)
  | failed
  deriving DecidableEq, Repr

/-- The configuration values of a branch (R142). -/
structure BranchConfig where
  poolBase : Word
  poolExp : Nat
  limit : Nat
  replyTimeout : Nat
  orphanHold : Nat
  autoEnumerate : Bool
  deriving DecidableEq, Repr

/-- The counters of a branch controller (R146). -/
structure ControllerCounters where
  linkLosses : Word
  sleeps : Word
  wakes : Word
  wakeFailures : Word
  wakesRefused : Word
  deriving DecidableEq, Repr

/-- The counters of a forwarder (R60). -/
structure ForwarderCounters where
  issued : Word
  recheck : Word
  aged : Word
  flushed : Word
  deriving DecidableEq, Repr

/-- The counters of a chain controller (R121). -/
structure ChainCounters where
  enumerations : Word
  assigned : Word
  reclaimed : Word
  breaks : Word
  mends : Word
  unexpected : Word
  deriving DecidableEq, Repr

/-- One branch: its controller (R122), forward queue (R43), chain controller (R92, R97) and port (R182). -/
structure BranchUnit where
  state : BranchState
  clearOwed : Bool
  wakeLatch : Bool
  config : BranchConfig
  controller : ControllerCounters
  queue : List Slot
  forwarder : ForwarderCounters
  records : Vector Record 8
  enumeration : Enumeration
  outcome : EnumOutcome
  chain : ChainCounters
  port : LinkPort
  credit : Nat
  unsent : List BranchFrame
  deriving DecidableEq, Repr

/-- The owner of a notice: the part itself or the attachment at a position of a branch (R147). -/
inductive Source where
  | self
  | attachment (b : Branch) (p : Position)
  deriving DecidableEq, Repr

/-- What a notice holds for its kind of source (R148): the self notice its cause set, an attachment notice the code of
the ATTENTION that made it. -/
inductive NoticeBody where
  | self (causes : CauseSet)
  | attachment (b : Branch) (p : Position) (code : Byte)
  deriving DecidableEq, Repr

/-- A notice (R148). -/
structure Notice where
  body : NoticeBody
  merges : Nat
  presentations : Nat
  deriving DecidableEq, Repr

/-- A self cause (R152). -/
inductive Cause where
  | link (b : Branch)
  | enum (b : Branch)
  | chain (b : Branch)
  | wake (b : Branch)
  | tagclash
  deriving DecidableEq, Repr

/-- A REPLY under an upstream tag (R197). -/
structure ReplyFrame where
  tag : UTag
  status : Status
  detail : Byte
  data : List Word
  deriving DecidableEq, Repr

/-- A frame of the egress queue (R176). The ATTENTION carries hop count 0 and the head's source number (R154). -/
inductive EgressFrame where
  | reply (r : ReplyFrame)
  | attention (code : Byte)
  deriving DecidableEq, Repr

/-- The counters of the upstream member logic and the U port (R181). -/
structure UpstreamCounters where
  overrun : Word
  clears : Word
  linkLosses : Word
  assigns : Word
  releases : Word
  ignored : Word
  unexpected : Word
  wakes : Word
  deriving DecidableEq, Repr

/-- The counters of the classifier (R41). -/
structure ClassifierCounters where
  noroute : Word
  denied : Word
  bounds : Word
  malformed : Word
  absent : Word
  busy : Word
  tagClash : Word
  postDropped : Word
  deriving DecidableEq, Repr

/-- The counters of the tracker (R86). -/
structure TrackerCounters where
  timeout : Word
  late : Word
  stray : Word
  abandoned : Word
  badreply : Word
  cut : Word
  deriving DecidableEq, Repr

/-- The counters of the management unit (R213). -/
structure MgmtCounters where
  reads : Word
  writes : Word
  commands : Word
  partialWrite : Word
  readonly : Word
  badentry : Word
  refused : Word
  denied : Word
  postDropped : Word
  deriving DecidableEq, Repr

/-- The counters of the notice unit (R164). -/
structure NoticeCounters where
  joined : Word
  merged : Word
  discarded : Word
  presented : Word
  skipped : Word
  acknowledged : Word
  deriving DecidableEq, Repr

/-- The state of the part. now, choices and pending are the model's own (assumptions 1, 3 and 2). -/
structure State where
  /-- The reference clock, in microseconds (assumption 1). -/
  now : Time
  /-- The RESET input is asserted (R175). -/
  resetPin : Bool
  /-- The span size exponent S (R1, R200). -/
  spanExp : Nat
  /-- The identity number (R166). -/
  identity : Word
  /-- The member state: none is UNASSIGNED, some base is ASSIGNED (R165). -/
  member : Option Word
  /-- The U port (R182, R20). -/
  u : UPort
  /-- Counters of R181. -/
  upstream : UpstreamCounters
  /-- The ingress buffer, head first (R19). -/
  ingress : List Request
  /-- The ingress head is the held request: accepted, and waiting for the management unit (R32). -/
  held : Bool
  /-- The tag register (R23). -/
  tagReg : List UTag
  /-- The window table (R4). -/
  windows : Vector Window 32
  /-- Counters of R41. -/
  classifier : ClassifierCounters
  /-- The egress queue, oldest first (R176). -/
  egress : List EgressFrame
  /-- The count of egress reservations (R24). -/
  reservations : Nat
  /-- The management unit's input queue, head first (R201). -/
  mgmtQueue : List MgmtRequest
  /-- Counters of R213. -/
  mgmt : MgmtCounters
  /-- The pending transaction table (R61). -/
  entries : Vector PendingEntry 32
  /-- Counters of R86. -/
  tracker : TrackerCounters
  /-- The four branches. -/
  branches : Vector BranchUnit 4
  /-- The notice queue, head first (R149). -/
  notices : List Notice
  /-- The re-present timer (R155). -/
  rePresentTimer : Option Time
  /-- A presentation is owed (R157). -/
  presentationOwed : Bool
  /-- The re-present interval, in milliseconds (R155). -/
  interval : Nat
  /-- Counters of R164. -/
  noticeUnit : NoticeCounters
  /-- How many free choices Config.noticesFirst has answered (assumption 3). -/
  choices : Nat
  /-- The commands waiting, first in, first out (assumption 2). -/
  pending : List Instr
  deriving DecidableEq, Repr

/-- Faults: the spec names no happening at which the part stops, so there is no reason a step could end in a fault. -/
inductive Fault where
  deriving DecidableEq, Repr

/-- Refusals. -/
inductive Refusal where
  /-- An arm of exec that has no meaning yet answers with this, naming its row. Safe: nothing is claimed of the row. No
  arm of this model does. -/
  | notModelled (mnemonic : String)
  deriving DecidableEq, Repr

/-- Port counters at zero. -/
def PortCounters.zero : PortCounters := ⟨0, 0, 0, 0⟩

/-- Branch controller counters at zero. -/
def ControllerCounters.zero : ControllerCounters := ⟨0, 0, 0, 0, 0⟩

/-- Forwarder counters at zero. -/
def ForwarderCounters.zero : ForwarderCounters := ⟨0, 0, 0, 0⟩

/-- Chain controller counters at zero. -/
def ChainCounters.zero : ChainCounters := ⟨0, 0, 0, 0, 0, 0⟩

/-- Upstream counters at zero. -/
def UpstreamCounters.zero : UpstreamCounters := ⟨0, 0, 0, 0, 0, 0, 0, 0⟩

/-- Classifier counters at zero. -/
def ClassifierCounters.zero : ClassifierCounters := ⟨0, 0, 0, 0, 0, 0, 0, 0⟩

/-- Tracker counters at zero. -/
def TrackerCounters.zero : TrackerCounters := ⟨0, 0, 0, 0, 0, 0⟩

/-- Management unit counters at zero. -/
def MgmtCounters.zero : MgmtCounters := ⟨0, 0, 0, 0, 0, 0, 0, 0, 0⟩

/-- Notice unit counters at zero. -/
def NoticeCounters.zero : NoticeCounters := ⟨0, 0, 0, 0, 0, 0⟩

/-- The rights set that admits no kind (R5). -/
def Rights.empty : Rights := ⟨false, false, false, false⟩

/-- A window entry after either reset (R16). -/
def Window.cleared : Window :=
  { valid := false, offset := 0, sizeExp := 0, branch := 0, target := 0, rights := Rights.empty, hits := 0 }

/-- The configuration values after either reset (R142). -/
def BranchConfig.default : BranchConfig :=
  { poolBase := 0, poolExp := 24, limit := 8, replyTimeout := 100, orphanHold := 40, autoEnumerate := true }

/-- A port right after power-on reset: TRAINING, its first attempt begun at time t (R182, R175). -/
def LinkPort.afterPowerOn (t : Time) : LinkPort :=
  { link := .training, badRun := 0, attemptTimer := some (t + Config.trainingAttempt), relistenTimer := none,
    counters := PortCounters.zero }

/-- A branch right after power-on reset taken at time t (R122, R59, R118, R182). -/
def BranchUnit.afterPowerOn (t : Time) : BranchUnit :=
  { state := .down, clearOwed := true, wakeLatch := false, config := BranchConfig.default,
    controller := ControllerCounters.zero, queue := [], forwarder := ForwarderCounters.zero,
    records := Vector.replicate 8 Record.vacant, enumeration := .idle, outcome := .none, chain := ChainCounters.zero,
    port := LinkPort.afterPowerOn t, credit := 0, unsent := [] }

/-- The part right after a power-on reset taken at time 0 (R175 and the rules it cites). DESIGN CHOICE (assumption 5):
both straps low, so S is 16, and identity number 0. -/
def State.reset : State :=
  { now := 0, resetPin := false, spanExp := 16, identity := 0, member := none,
    u := { port := LinkPort.afterPowerOn 0, granted := 0, owed := 0, unsent := [], sending := none },
    upstream := UpstreamCounters.zero, ingress := [], held := false, tagReg := [],
    windows := Vector.replicate 32 Window.cleared, classifier := ClassifierCounters.zero,
    egress := [], reservations := 0, mgmtQueue := [], mgmt := MgmtCounters.zero,
    entries := Vector.replicate 32 PendingEntry.free, tracker := TrackerCounters.zero,
    branches := Vector.replicate 4 (BranchUnit.afterPowerOn 0),
    notices := [], rePresentTimer := none, presentationOwed := false, interval := Config.intervalDefault,
    noticeUnit := NoticeCounters.zero, choices := 0, pending := [] }

end Sys2Proof.Machine
end

