-- ==== Sys2Proof/Machine/Ops.lean ====
section
/-!
DEFINITION. The named operations over the tables, counters, ports and the egress queue, which every command's meaning is
made of.
-/

namespace Sys2Proof.Machine

open Sys2Proof

/-- A fixed table with every entry replaced, each by what its number and its value give. -/
def mapTable {α : Type} {n : Nat} (f : Fin n → α → α) (v : Vector α n) : Vector α n :=
  ⟨((List.finRange n).map fun i => f i v[i]).toArray, by simp⟩

/-- Branch b. -/
def State.br (s : State) (b : Branch) : BranchUnit :=
  s.branches[b]

/-- Replace branch b. -/
def State.setBr (s : State) (b : Branch) (u : BranchUnit) : State :=
  { s with branches := s.branches.set b.val u b.isLt }

/-- Change branch b and nothing else. -/
def State.updBr (s : State) (b : Branch) (f : BranchUnit → BranchUnit) : State :=
  s.setBr b (f (s.br b))

/-- Pending entry e. -/
def State.entry (s : State) (e : EntryIx) : PendingEntry :=
  s.entries[e]

/-- Replace pending entry e. -/
def State.setEntry (s : State) (e : EntryIx) (x : PendingEntry) : State :=
  { s with entries := s.entries.set e.val x e.isLt }

/-- A timer that runs out at d does so at that time: the clock stands at d, or where it stood if that is later
(assumption 1). -/
def State.advanceTo (s : State) (d : Time) : State :=
  { s with now := max s.now d }

/-- The reply deadline of a WAITING entry (R64). -/
def PendingEntry.replyDeadline? : PendingEntry → Option Time
  | .waiting _ _ d => some d
  | .free => none
  | .orphaned _ _ _ => none

/-- The deadlines by which an accepted request leaves a forward queue or is answered (R53, R70). -/
def State.requestDeadlines (s : State) : List Time :=
  s.branches.toList.flatMap (fun u => u.queue.map Slot.ageDeadline)
    ++ s.entries.toList.filterMap PendingEntry.replyDeadline?

/-- No age deadline and no reply deadline comes before d, so a timer that runs out at d can be the next that does (R216;
assumption 1). -/
def State.reaches (s : State) (d : Time) : Bool :=
  s.requestDeadlines.all fun e => decide (d ≤ e)

/-- A timer set to run out at d does so. Where an age deadline or a reply deadline comes before d, that one runs out first, and
nothing happens yet (R216; assumption 1). -/
def State.runOut (d : Time) (act : State → State) (s : State) : State :=
  if s.reaches d then act (s.advanceTo d) else s

/-! ### Ports -/

/-- A port that begins a training attempt at time t: TRAINING, with the attempt timer started and the re-listen timer
stopped (R183, R196). The consecutive-bad-frame count is 0 once the port has left UP (section 9.9; assumption 9). -/
def LinkPort.train (t : Time) (p : LinkPort) : LinkPort :=
  { p with link := .training, badRun := 0, attemptTimer := some (t + Config.trainingAttempt), relistenTimer := none }

/-- A port that goes OFF: it does not train and takes nothing (R182). -/
def LinkPort.goOff (p : LinkPort) : LinkPort :=
  { p with link := .off, badRun := 0, attemptTimer := none, relistenTimer := none }

/-- A port that enters QUIET (R194). -/
def LinkPort.goQuiet (p : LinkPort) : LinkPort :=
  { p with link := .quiet, badRun := 0, attemptTimer := none, relistenTimer := none }

/-- A port that enters UP: the bad-frame count is 0 and the attempt timer stops (R183). -/
def LinkPort.goUp (p : LinkPort) : LinkPort :=
  { p with link := .up, badRun := 0, attemptTimer := none, relistenTimer := none }

/-- A good frame received in UP makes the consecutive-bad-frame count 0 (R187). -/
def LinkPort.goodFrame (p : LinkPort) : LinkPort :=
  if p.link = .up then { p with badRun := 0 } else p

/-- Count a frame discarded as bad (R187). -/
def LinkPort.countBad (p : LinkPort) : LinkPort :=
  { p with counters := { p.counters with badFrames := p.counters.badFrames + 1 } }

/-- Count a good frame the port discards (R199). -/
def LinkPort.countDiscarded (p : LinkPort) : LinkPort :=
  { p with counters := { p.counters with discarded := p.counters.discarded + 1 } }

/-- Count a training attempt that ran out (R183). -/
def LinkPort.countAttempt (p : LinkPort) : LinkPort :=
  { p with counters := { p.counters with trainingAttempts := p.counters.trainingAttempts + 1 } }

/-- Count a CREDIT that would take the count above its bound (R192). -/
def LinkPort.countOverflow (p : LinkPort) : LinkPort :=
  { p with counters := { p.counters with creditOverflow := p.counters.creditOverflow + 1 } }

/-- A port that is made to train: it begins an attempt, unless RESET is asserted, which holds it OFF (R175). -/
def State.trained (s : State) (p : LinkPort) : LinkPort :=
  if s.resetPin then p.goOff else p.train s.now

/-- The U port begins training. -/
def State.trainU (s : State) : State :=
  { s with u := { s.u with port := s.trained s.u.port } }

/-- The port of branch b leaves the state it is in and begins training; its transmit credit is 0 while it is not UP
(R192). -/
def State.trainBranch (b : Branch) (s : State) : State :=
  s.updBr b fun u => { u with port := s.trained u.port, credit := 0 }

/-- Hand a frame to the port of branch b, behind those handed before it (R50). The branch blocks hand nothing to a port
that is not UP (R191). -/
def State.hand (b : Branch) (f : BranchFrame) (s : State) : State :=
  s.updBr b fun u => if u.port.link = .up then { u with unsent := u.unsent ++ [f] } else u

/-- A CREDIT is the next of the U port's own frames: it is due, and every member frame that waits was handed after it fell
due (R20, R167, R191). -/
def UPort.creditTurn (u : UPort) : Bool :=
  decide (0 < u.owed) && u.unsent.head?.all HandedFrame.afterCredit

/-- The member frames that wait, none of them behind a CREDIT: the CREDIT that was due has been begun, or is void (R170). -/
def UPort.aheadOfCredit (u : UPort) : List HandedFrame :=
  u.unsent.map fun h => { h with afterCredit := false }

/-- The U port with its next frame begun, as it is at once where the link is UP and the port sends none: a CREDIT of the whole
of owed in its turn, else the oldest member frame, else the oldest egress frame, where any waits (R20, R167, R177, R191;
assumption 14). -/
def UPort.begin (egressWaits : Bool) (u : UPort) : UPort :=
  if u.port.link ≠ .up ∨ u.sending ≠ none then u
  else if u.creditTurn then { u with sending := some (.credit u.owed), unsent := u.aheadOfCredit }
  else if u.unsent ≠ [] then { u with sending := some .member }
  else if egressWaits then { u with sending := some .egress }
  else u

/-- The U port of this state with its next frame begun. -/
def State.uBegun (s : State) : UPort :=
  s.u.begin (s.egress != [])

/-- The frame that U is sending: the one it has begun. While U is not UP it begins none, and only the frame that a HUSH found
being sent is still sent to its end (R191, R194). -/
def State.onLineU (s : State) : Option USending :=
  s.uBegun.sending

/-- The increment of the CREDIT that the port is sending; 0 where it sends none. -/
def UPort.creditOnLine (u : UPort) : Nat :=
  match u.sending with
  | some (.credit n) => n
  | some .member => 0
  | some .egress => 0
  | none => 0

/-- Hand a member frame to the U port, behind what waits there: the frame being sent, and a CREDIT that is due beyond it
(R167, R191). -/
def State.handU (f : MemberFrame) (s : State) : State :=
  { s with u := { s.uBegun with
    unsent := s.uBegun.unsent ++ [{ frame := f, afterCredit := decide (s.uBegun.creditOnLine < s.u.owed) }] } }

/-- A HUSH handed to the port of this branch has not been sent yet: the window of R184. -/
def BranchUnit.hushWaits (u : BranchUnit) : Bool :=
  u.unsent.contains .hush

/-- The port takes what comes from its line in QUIET: not while the quiet re-listen timer runs (R196). -/
def LinkPort.listensInQuiet (p : LinkPort) : Bool :=
  p.link == .quiet && p.relistenTimer == none

/-- The port of the branch takes the good frames that arrive: in UP, and in QUIET as R194 and R196 state (R190). -/
def BranchUnit.takesFrames (u : BranchUnit) : Bool :=
  u.port.link == .up || u.port.listensInQuiet

/-- Note at the port of branch b that a good frame was received (R187). -/
def State.goodFrameOn (b : Branch) (s : State) : State :=
  s.updBr b fun u => { u with port := u.port.goodFrame }

/-- Note at the U port that a good frame was received (R187). -/
def State.goodFrameOnU (s : State) : State :=
  { s with u := { s.u with port := s.u.port.goodFrame } }

/-! ### The egress queue and the tag register -/

/-- The frame is a reply frame. -/
def EgressFrame.isReply : EgressFrame → Bool
  | .reply _ => true
  | .attention _ => false

/-- The count of reply frames in the egress queue (R176). -/
def State.replyFrames (s : State) : Nat :=
  s.egress.countP EgressFrame.isReply

/-- The notice slot holds a frame (R176). -/
def State.noticeSlotFull (s : State) : Bool :=
  s.egress.any fun f => !f.isReply

/-- The U port signals wake where U is QUIET and the egress queue holds a frame: it leaves QUIET and trains, and the U
wakes counter counts it (R179). -/
def State.signalWakeU (s : State) : State :=
  if s.u.port.link = .quiet ∧ s.egress ≠ [] then
    let t := s.trainU
    { t with upstream := { t.upstream with wakes := t.upstream.wakes + 1 } }
  else s

/-- Place a frame at the tail of the egress queue, waking a QUIET U link (R176, R179). -/
def State.placeEgress (f : EgressFrame) (s : State) : State :=
  State.signalWakeU { s with egress := s.egress ++ [f] }

/-- Place the REPLY of an accepted request: it takes the place of the request's reservation, and the tag leaves the tag
register (R23, R24). -/
def State.placeReply (t : UTag) (status : Status) (detail : Byte) (data : List Word) (s : State) : State :=
  State.placeEgress (.reply { tag := t, status := status, detail := detail, data := data })
    { s with tagReg := s.tagReg.filter (· ≠ t), reservations := s.reservations - 1 }

/-- Answer a request with a status, detail 0 and no data, if it is tagged; a POST is dropped without reply. -/
def State.answer (h : ReqHeader) (status : Status) (s : State) : State :=
  match h with
  | .tagged _ t => s.placeReply t status 0 []
  | .post => s

/-- Answer several requests in the order given, each with the same status, detail 0 and no data. -/
def State.answerAll (hs : List ReqHeader) (status : Status) (s : State) : State :=
  hs.foldl (fun s h => s.answer h status) s

/-! ### The order of two placings that the spec leaves open -/

/-- Make the REPLYs of a branch event and its doings in the notice unit at one happening. The spec does not order the
ATTENTION frame of a presentation among those REPLYs, so a free choice does (assumption 3). -/
def State.inOpenOrder (replies notices : State → State) (s : State) : State :=
  let next := { s with choices := s.choices + 1 }
  if Config.noticesFirst s.choices then replies (notices next) else notices (replies next)

end Sys2Proof.Machine
end

