-- ==== Sys2Proof/Machine/Flags.lean ====
section
/-!
DEFINITION. The notice unit: sources, the self cause set and its bits, joining, merging, presenting and removing notices
(chapter 7). Every block raises its self causes through State.raise.
-/

namespace Sys2Proof.Machine

open Sys2Proof

/-- The number of a source: 0 for the part itself, 1 + 8·b + p for position p of branch b (R147). -/
def Source.number : Source → Nat
  | .self => 0
  | .attachment b p => 1 + 8 * b.val + p.val

/-- The source with a number, for the numbers 0 to 32 (R147). -/
def Source.ofNumber (n : Nat) : Option Source :=
  if n = 0 then some .self
  else if n ≤ 32 then some (.attachment (Fin.ofNat 4 ((n - 1) / 8)) (Fin.ofNat 8 ((n - 1) % 8)))
  else none

/-- The bit of a cause in the self cause set (last table of R212). -/
def Cause.bit : Cause → Nat
  | .link b => b.val
  | .enum b => 4 + b.val
  | .chain b => 8 + b.val
  | .wake b => 12 + b.val
  | .tagclash => 16

/-- The cause set that holds one cause. -/
def Cause.toSet (c : Cause) : CauseSet :=
  BitVec.ofNat 17 (2 ^ c.bit)

/-- The source a notice belongs to. -/
def Notice.source (n : Notice) : Source :=
  match n.body with
  | .self _ => .self
  | .attachment b p _ => .attachment b p

/-- One more merge, saturating at 15 (R148). -/
def Notice.merge (n : Notice) : Notice :=
  { n with merges := min 15 (n.merges + 1) }

/-- One more presentation, saturating at 255 (R148, R154). -/
def Notice.present (n : Notice) : Notice :=
  { n with presentations := min 255 (n.presentations + 1) }

/-- Add causes to a self notice (R153). -/
def Notice.addCauses (c : CauseSet) (n : Notice) : Notice :=
  match n.body with
  | .self cs => { n with body := .self (cs ||| c) }
  | .attachment _ _ _ => n

/-- A source has a notice. -/
def State.hasNotice (src : Source) (s : State) : Bool :=
  s.notices.any fun n => n.source == src

/-- The cause set of the self notice; empty when there is none (R164). -/
def State.selfCauses (s : State) : CauseSet :=
  match s.notices.find? (fun n => n.source == .self) with
  | some { body := .self cs, .. } => cs
  | _ => 0

/-- The re-present timer as a due presentation leaves it: started for the interval standing now, or not running where
the interval is 0 (R155; assumption 12). -/
def State.restartedTimer (s : State) : Option Time :=
  if s.interval = 0 then none else some (s.now + s.interval * Config.intervalUnit)

/-- A presentation of the head falls due: the timer is started, and the presentation is made, skipped where the notice
slot holds a frame, or deferred where the part is UNASSIGNED (R154 to R157). -/
def State.presentationDue (s : State) : State :=
  match s.notices with
  | [] => s
  | h :: rest =>
    let s := { s with rePresentTimer := s.restartedTimer }
    if s.member = none then { s with presentationOwed := true }
    else if s.noticeSlotFull then
      { s with noticeUnit := { s.noticeUnit with skipped := s.noticeUnit.skipped + 1 } }
    else
      State.placeEgress (.attention (BitVec.ofNat 8 h.source.number))
        { s with
          notices := h.present :: rest
          noticeUnit := { s.noticeUnit with presented := s.noticeUnit.presented + 1 } }

/-- A notice joins the tail with its counts at 0; joining an empty queue it becomes head and is presented
(R149, R150, R153). -/
def State.joinNotice (body : NoticeBody) (s : State) : State :=
  let joined :=
    { s with
      notices := s.notices ++ [{ body := body, merges := 0, presentations := 0 }]
      noticeUnit := { s.noticeUnit with joined := s.noticeUnit.joined + 1 } }
  if s.notices = [] then joined.presentationDue else joined

/-- Merge into the notice of a source: its merge count rises and it takes the causes given (R150, R153). -/
def State.mergeNotice (src : Source) (causes : CauseSet) (s : State) : State :=
  { s with
    notices := s.notices.map fun n => if n.source = src then (n.addCauses causes).merge else n
    noticeUnit := { s.noticeUnit with merged := s.noticeUnit.merged + 1 } }

/-- A self cause is raised: it makes the self notice, or is added to it as a merge (R153). -/
def State.raise (c : Cause) (s : State) : State :=
  if s.hasNotice .self then s.mergeNotice .self c.toSet else s.joinNotice (.self c.toSet)

/-- Put a new notice list in place after a removal. Where the head has gone and a notice is left, the new head's
presentation falls due; where none is left, the timer stops and the owed mark is cleared (R161). -/
def State.afterRemoval (kept : List Notice) (headGone : Bool) (s : State) : State :=
  if kept = [] then { s with notices := [], rePresentTimer := none, presentationOwed := false }
  else if headGone then State.presentationDue { s with notices := kept }
  else { s with notices := kept }

/-- Remove the notices of the sources named, from wherever they stand (R149, R160, R161). -/
def State.removeNotices (gone : Source → Bool) (s : State) : State :=
  match s.notices with
  | [] => s
  | h :: _ => s.afterRemoval (s.notices.filter fun n => !gone n.source) (gone h.source)

/-- Remove the notices of the positions of branch b that are named. -/
def State.removeNoticesOf (b : Branch) (gone : Position → Bool) (s : State) : State :=
  s.removeNotices fun src =>
    match src with
    | .self => false
    | .attachment c p => c == b && gone p

/-- The NOTICE-ACK command is accepted in the present state: its source has a notice, and for the self source the named
causes and the self notice's have one in common (R158). -/
def State.ackAccepted (src : Source) (causes : CauseSet) (s : State) : Bool :=
  match src with
  | .self => s.hasNotice .self && (s.selfCauses &&& causes) != 0
  | .attachment _ _ => s.hasNotice src

/-- An accepted NOTICE-ACK of the self source: the notice goes, or rejoins at the tail with the causes that remain and
its counts at 0 (R159, R161). -/
def State.ackSelf (causes : CauseSet) (s : State) : State :=
  let left := s.selfCauses &&& ~~~causes
  if left = 0 then s.removeNotices (· == .self)
  else
    match s.notices with
    | [] => s
    | h :: _ =>
      s.afterRemoval
        ((s.notices.filter fun n => n.source != .self) ++ [{ body := .self left, merges := 0, presentations := 0 }])
        (h.source == .self)

/-- An accepted NOTICE-ACK (R158, R159): an attachment's clears the wake latch of its branch, and either kind is
counted. -/
def State.ackNotice (src : Source) (causes : CauseSet) (s : State) : State :=
  let acked :=
    match src with
    | .self => s.ackSelf causes
    | .attachment b _ => (s.removeNotices (· == src)).updBr b fun u => { u with wakeLatch := false }
  { acked with noticeUnit := { acked.noticeUnit with acknowledged := acked.noticeUnit.acknowledged + 1 } }

end Sys2Proof.Machine
end

