-- ==== Sys2Proof/Machine/Operands.lean ====
section
/-!
DEFINITION. The formats of chapter 10: the numbers that stand for named values (R212, R215), the map of the management
block (R203), the words each record reads as (R212), and what a written word means (R208, R212).
-/

namespace Sys2Proof.Machine

open Sys2Proof

/-! ### Fields of a word -/

/-- A value standing in bits hi:lo of a word, cut to their width. -/
def field (hi lo v : Nat) : Nat :=
  v % 2 ^ (hi - lo + 1) * 2 ^ lo

/-- A word made of fields that do not overlap. -/
def packWord (fields : List Nat) : Word :=
  BitVec.ofNat 32 fields.sum

/-- The value in bits hi:lo of a word. -/
def bitsOf (w : Word) (hi lo : Nat) : Nat :=
  w.toNat / 2 ^ lo % 2 ^ (hi - lo + 1)

/-- A flag as a one-bit value. -/
def flagBit (b : Bool) : Nat :=
  if b then 1 else 0

/-! ### Numbers of named values (R212, R215) -/

/-- The number of a link state. -/
def LinkState.code : LinkState → Nat
  | .off => 0
  | .training => 1
  | .up => 2
  | .quiet => 3

/-- The number of a branch state. -/
def BranchState.code : BranchState → Nat
  | .down => 0
  | .active => 1
  | .draining => 2
  | .dormant => 3
  | .waking _ => 4
  | .failed => 5

/-- The number of an enumeration outcome. -/
def EnumOutcome.code : EnumOutcome → Nat
  | .none => 0
  | .done => 1
  | .tooMany => 2
  | .conflict => 3
  | .poolExhausted => 4
  | .noAnswer => 5
  | .aborted => 6

/-- The number of a pending entry's kind. -/
def kindCode : TaggedKind → Nat
  | .read => 0
  | .write => 1
  | .swap => 2

/-- The number of a status (R215). -/
def Status.code : Status → Nat
  | .ok => 0
  | .fault => 1
  | .noroute => 2
  | .denied => 3
  | .bounds => 4
  | .malformed => 5
  | .absent => 6
  | .busy => 7
  | .lost => 8
  | .timeout => 9
  | .flushed => 10
  | .badreply => 11
  | .refused => 12
  | .partialWrite => 13
  | .badentry => 14
  | .readonly => 15

/-- The status a status byte names; 16 to 255 name none (R215). -/
def Status.ofByte (b : Byte) : Option Status :=
  [Status.ok, .fault, .noroute, .denied, .bounds, .malformed, .absent, .busy, .lost, .timeout, .flushed, .badreply,
    .refused, .partialWrite, .badentry, .readonly][b.toNat]?

/-- The three flags of a member in bits 24 to 26 (R212). -/
def flagFields (f : MemberFlags) : List Nat :=
  [field 24 24 (flagBit f.attentionCapable), field 25 25 (flagBit f.sleepCapable), field 26 26 (flagBit f.concentrator)]

/-! ### What records of the block read as (R212) -/

/-- The DESCRIPTOR the part sends (R166). -/
def State.descriptor (s : State) : OwnDescriptor :=
  { cls := Config.descriptorClass, identity := s.identity, sizeExp := s.spanExp, flags := ⟨true, true, true⟩, hop := 0 }

/-- The counters of R181 in the order of R212. -/
def UpstreamCounters.list (c : UpstreamCounters) : List Word :=
  [c.overrun, c.clears, c.linkLosses, c.assigns, c.releases, c.ignored, c.unexpected, c.wakes]

/-- The counters of a port in the order of R213. -/
def PortCounters.list (c : PortCounters) : List Word :=
  [c.badFrames, c.discarded, c.trainingAttempts, c.creditOverflow]

/-- The counters of the classifier in the order of R213. -/
def ClassifierCounters.list (c : ClassifierCounters) : List Word :=
  [c.noroute, c.denied, c.bounds, c.malformed, c.absent, c.busy, c.tagClash, c.postDropped]

/-- The counters of the tracker in the order of R213. -/
def TrackerCounters.list (c : TrackerCounters) : List Word :=
  [c.timeout, c.late, c.stray, c.abandoned, c.badreply, c.cut]

/-- The counters of the management unit in the order of R213. -/
def MgmtCounters.list (c : MgmtCounters) : List Word :=
  [c.reads, c.writes, c.commands, c.partialWrite, c.readonly, c.badentry, c.refused, c.denied, c.postDropped]

/-- The counters of the notice unit in the order of R213. -/
def NoticeCounters.list (c : NoticeCounters) : List Word :=
  [c.joined, c.merged, c.discarded, c.presented, c.skipped, c.acknowledged]

/-- The counters of a branch controller in the order of R212. -/
def ControllerCounters.list (c : ControllerCounters) : List Word :=
  [c.linkLosses, c.sleeps, c.wakes, c.wakeFailures, c.wakesRefused]

/-- The branch counters at 0x800 + 64·b: forwarder, chain controller, port (R213). -/
def BranchUnit.counterList (u : BranchUnit) : List Word :=
  [u.forwarder.issued, u.forwarder.recheck, u.forwarder.aged, u.forwarder.flushed,
    u.chain.enumerations, u.chain.assigned, u.chain.reclaimed, u.chain.breaks, u.chain.mends, u.chain.unexpected]
    ++ u.port.counters.list

/-- The general counters from 0x700 (R213). -/
def State.generalCounterList (s : State) : List Word :=
  s.u.port.counters.list ++ s.classifier.list ++ s.tracker.list ++ s.mgmt.list

/-- General word i, at offset 4·i (R212). -/
def State.generalWord (s : State) (i : Nat) : Word :=
  match i with
  | 0 => s.identity
  | 1 =>
    packWord ([field 15 0 s.descriptor.cls.toNat, field 20 16 s.descriptor.sizeExp] ++ flagFields s.descriptor.flags)
  | 2 => packWord [field 4 0 s.spanExp, field 8 8 (flagBit s.member.isSome), field 17 16 s.u.port.link.code]
  | 3 => s.member.getD 0
  | 4 => packWord [field 6 0 s.reservations, field 14 8 s.replyFrames, field 16 16 (flagBit s.noticeSlotFull)]
  | 5 => BitVec.ofNat 32 s.interval
  | 6 => 0
  | j + 7 => s.upstream.list.getD j 0

/-- The entry is of branch b: WAITING or ORPHANED (R62). -/
def PendingEntry.onBranch (b : Branch) : PendingEntry → Bool
  | .free => false
  | .waiting c _ _ => c.branch == b
  | .orphaned c _ _ => c.branch == b

/-- The number of pending entries of branch b that are not FREE: its entry count (R45, R62). -/
def State.entryCount (s : State) (b : Branch) : Nat :=
  s.entries.toList.countP (PendingEntry.onBranch b)

/-- Word j of the first part of branch b's record, at 0x040 + 48·b + 4·j (R212). -/
def State.branchWord (s : State) (b : Branch) (j : Nat) : Word :=
  let u := s.br b
  match j with
  | 0 =>
    packWord [field 2 0 u.state.code, field 4 4 (flagBit (u.enumeration != .idle)), field 10 8 u.outcome.code,
      field 12 12 (flagBit u.wakeLatch), field 13 13 (flagBit u.clearOwed), field 17 16 u.port.link.code]
  | 1 =>
    packWord [field 3 0 u.queue.length, field 12 8 ((u.queue.head?.map fun q => q.window.val).getD 0),
      field 20 16 (s.entryCount b), field 31 24 u.credit]
  | 2 => u.config.poolBase
  | 3 =>
    packWord [field 7 0 u.config.poolExp, field 15 8 u.config.limit, field 16 16 (flagBit u.config.autoEnumerate)]
  | 4 => packWord [field 15 0 u.config.replyTimeout, field 31 16 u.config.orphanHold]
  | 5 => 0
  | k + 6 => u.controller.list.getD k 0

/-- Word j of a window entry (R212). -/
def Window.word (w : Window) (j : Nat) : Word :=
  match j with
  | 0 => w.offset
  | 1 => w.target
  | 2 =>
    packWord [field 7 0 w.sizeExp.toNat, field 9 8 w.branch.val, field 16 16 (flagBit w.rights.read),
      field 17 17 (flagBit w.rights.write), field 18 18 (flagBit w.rights.post), field 19 19 (flagBit w.rights.swap),
      field 31 31 (flagBit w.valid)]
  | _ => w.hits

/-- Word 0 of a record with a state number, whether a range is held, and the member's size exponent and flags. -/
def Member.word0 (m : Member) (state : Nat) (ranged : Bool) : Word :=
  packWord ([field 2 0 state, field 8 8 (flagBit ranged), field 20 16 m.sizeExp.toNat] ++ flagFields m.flags)

/-- The member a record describes; absent while VACANT (R92). -/
def Record.member? : Record → Option Member
  | .vacant => none
  | .identified m _ => some m
  | .unplaced m => some m
  | .assigned m _ => some m
  | .lost m _ => some m

/-- The range base a record holds (R92). -/
def Record.base? : Record → Option Word
  | .vacant => none
  | .identified _ base => some base
  | .unplaced _ => none
  | .assigned _ base => some base
  | .lost _ base => base

/-- The number of an attachment state (R212). -/
def Record.code : Record → Nat
  | .vacant => 0
  | .identified _ _ => 1
  | .unplaced _ => 2
  | .assigned _ _ => 3
  | .lost _ _ => 4

/-- Word j of an attachment record; absent fields read as zero (R120, R212). -/
def Record.word (r : Record) (j : Nat) : Word :=
  match r.member? with
  | none => 0
  | some m =>
    match j with
    | 0 => m.word0 r.code r.base?.isSome
    | 1 => packWord [field 15 0 m.cls.toNat]
    | 2 => m.identity
    | _ => r.base?.getD 0

/-- The time from now to a deadline in 10 µs units, rounded up (R86). -/
def remaining (now deadline : Time) : Nat :=
  (deadline - now + 9) / 10

/-- Word 0 of the view of an entry that is not FREE, with its state number (R212). -/
def Carried.word0 (c : Carried) (state : Nat) : Word :=
  packWord [field 1 0 state, field 5 4 c.branch.val, field 11 8 c.tag.toNat, field 13 12 (kindCode c.kind),
    field 18 16 c.position.val, field 24 20 c.count]

/-- Word j of the view of a pending entry at time now (R86, R212). -/
def PendingEntry.word (now : Time) (e : PendingEntry) (j : Nat) : Word :=
  match e with
  | .free => 0
  | .waiting c t d => if j = 0 then c.word0 1 else packWord [field 19 0 (remaining now d), field 25 20 t.toNat]
  | .orphaned c d st => if j = 0 then c.word0 2 else packWord [field 19 0 (remaining now d), field 31 28 st.code]

/-- The word of a notice in the notice queue view (R164, R212). -/
def Notice.word (n : Notice) : Word :=
  let code := match n.body with
    | .self _ => 0
    | .attachment _ _ code => code.toNat
  packWord [field 5 0 n.source.number, field 15 8 code, field 19 16 n.merges, field 31 24 n.presentations]

/-- Word i of the notice queue view, at 0x600 + 4·i (R164, R212). -/
def State.noticeWord (s : State) (i : Nat) : Word :=
  if i = 0 then
    packWord [field 5 0 s.notices.length, field 13 8 ((s.notices.head?.map fun n => n.source.number).getD 0)]
  else if i = 1 then packWord [field 16 0 s.selfCauses.toNat]
  else if i < 35 then (s.notices[i - 2]?.map Notice.word).getD 0
  else s.noticeUnit.list.getD (i - 35) 0

/-- The word of the management block at an offset, as it stands (R203, R204). -/
def State.readWord (s : State) (off : Nat) : Word :=
  if off < 0x040 then s.generalWord (off / 4)
  else if off < 0x100 then s.branchWord (Fin.ofNat 4 ((off - 0x040) / 48)) ((off - 0x040) % 48 / 4)
  else if off < 0x300 then (s.windows[Fin.ofNat 32 ((off - 0x100) / 16)]).word ((off - 0x100) % 16 / 4)
  else if off < 0x500 then
    ((s.br (Fin.ofNat 4 ((off - 0x300) / 128))).records[Fin.ofNat 8 ((off - 0x300) % 128 / 16)]).word
      ((off - 0x300) % 16 / 4)
  else if off < 0x600 then (s.entry (Fin.ofNat 32 ((off - 0x500) / 8))).word s.now ((off - 0x500) % 8 / 4)
  else if off < 0x700 then s.noticeWord ((off - 0x600) / 4)
  else if off < 0x800 then s.generalCounterList.getD ((off - 0x700) / 4) 0
  else if off < 0x900 then (s.br (Fin.ofNat 4 ((off - 0x800) / 64))).counterList.getD ((off - 0x800) % 64 / 4) 0
  else 0

/-! ### Records as a write sees them (R203) -/

/-- What a word of the management block belongs to: word j of a window entry or of a configuration record, a one-word
writable record, a read-only record, or nothing. -/
inductive WordRecord where
  | unmapped
  | readOnly
  | window (i : WindowIx) (j : Nat)
  | config (b : Branch) (j : Nat)
  | interval
  | globalCommand
  | branchCommand (b : Branch)
  deriving DecidableEq, Repr

/-- The map of R203. -/
def wordRecord (off : Nat) : WordRecord :=
  if off < 0x040 then
    if off / 4 = 5 then .interval
    else if off / 4 = 6 then .globalCommand
    else if off / 4 = 15 then .unmapped
    else .readOnly
  else if off < 0x100 then
    let b : Branch := Fin.ofNat 4 ((off - 0x040) / 48)
    let j := (off - 0x040) % 48 / 4
    if j = 2 ∨ j = 3 ∨ j = 4 then .config b (j - 2)
    else if j = 5 then .branchCommand b
    else if j = 11 then .unmapped
    else .readOnly
  else if off < 0x300 then .window (Fin.ofNat 32 ((off - 0x100) / 16)) ((off - 0x100) % 16 / 4)
  else if off < 0x700 then .readOnly
  else if off < 0x800 then if (off - 0x700) / 4 < 27 then .readOnly else .unmapped
  else if off < 0x900 then if (off - 0x800) % 64 / 4 < 14 then .readOnly else .unmapped
  else .unmapped

/-- The offset of window entry i (R203). -/
def windowOffset (i : WindowIx) : Nat :=
  0x100 + 16 * i.val

/-- The offset of branch b's configuration record (R203, R212). -/
def configOffset (b : Branch) : Nat :=
  0x048 + 48 * b.val

/-- The offset of the re-present interval (R212). -/
def intervalOffset : Nat :=
  0x014

/-- The offset of the global command word (R212). -/
def globalCommandOffset : Nat :=
  0x018

/-- The offset of branch b's command word (R212). -/
def branchCommandOffset (b : Branch) : Nat :=
  0x054 + 48 * b.val

/-! ### What written words mean -/

/-- The word a management write carries for an offset it covers. -/
def MgmtRequest.wordAt (r : MgmtRequest) (off : Nat) : Word :=
  r.data.getD ((off - r.offset) / 4) 0

/-- The write covers n words from an offset. -/
def MgmtRequest.coversWords (r : MgmtRequest) (off n : Nat) : Bool :=
  decide (r.offset ≤ off ∧ off + 4 * n ≤ r.offset + 4 * r.count)

/-- What each word the request covers belongs to, in ascending order of offset. -/
def MgmtRequest.records (r : MgmtRequest) : List WordRecord :=
  (List.range r.count).map fun i => wordRecord (r.offset + 4 * i)

/-- The window entry that a write carries for entry i, with its hit counter zeroed: a field is stored as written within
its width (R7, R8, R212). -/
def MgmtRequest.windowFor (r : MgmtRequest) (i : WindowIx) : Window :=
  let o := windowOffset i
  let w2 := r.wordAt (o + 8)
  { valid := w2.getLsbD 31
    offset := r.wordAt o
    sizeExp := BitVec.ofNat 8 (bitsOf w2 7 0)
    branch := Fin.ofNat 4 (bitsOf w2 9 8)
    target := r.wordAt (o + 4)
    rights := { read := w2.getLsbD 16, write := w2.getLsbD 17, post := w2.getLsbD 18, swap := w2.getLsbD 19 }
    hits := 0 }

/-- The configuration values that a write carries for branch b (R212). -/
def MgmtRequest.configFor (r : MgmtRequest) (b : Branch) : BranchConfig :=
  let o := configOffset b
  let w1 := r.wordAt (o + 4)
  let w2 := r.wordAt (o + 8)
  { poolBase := r.wordAt o
    poolExp := bitsOf w1 7 0
    limit := bitsOf w1 15 8
    autoEnumerate := w1.getLsbD 16
    replyTimeout := bitsOf w2 15 0
    orphanHold := bitsOf w2 31 16 }

/-- A command of R208 with its operands. -/
inductive Command where
  | enumerate (b : Branch)
  | release (b : Branch) (p : Position)
  | branchReset (b : Branch)
  | dormant (b : Branch)
  | wake (b : Branch)
  | noticeAck (src : Source) (causes : CauseSet)
  | clearCounters
  deriving DecidableEq, Repr

/-- The command a branch command word names; an unknown code names none (R208, R212). -/
def branchCommand (b : Branch) (w : Word) : Option Command :=
  match bitsOf w 3 0 with
  | 1 => some (.enumerate b)
  | 2 => some (.release b (Fin.ofNat 8 (bitsOf w 6 4)))
  | 3 => some (.branchReset b)
  | 4 => some (.dormant b)
  | 5 => some (.wake b)
  | _ => none

/-- The command a global command word names; an unknown code, or a NOTICE-ACK source above 32, names none
(R208, R212). -/
def globalCommand (w : Word) : Option Command :=
  match bitsOf w 3 0 with
  | 1 => (Source.ofNumber (bitsOf w 9 4)).map fun src => .noticeAck src (BitVec.ofNat 17 (bitsOf w 26 10))
  | 2 => some .clearCounters
  | _ => none

end Sys2Proof.Machine
end

