-- ==== Sys2Proof/Machine/Branches.lean ====
section
/-!
DEFINITION. The operations that more than one happening of a branch makes on its forward queue, its pending entries, its
attachment records, its enumeration and its state (chapters 3 to 6).
-/

namespace Sys2Proof.Machine

open Sys2Proof

/-! ### The forward queue -/

/-- What the slots of branch b's queue are answered under, in queue order. -/
def State.queuedHeaders (s : State) (b : Branch) : List ReqHeader :=
  (s.br b).queue.map Slot.hdr

/-- Every slot leaves the queue and is counted as flushed (R55 to R57). -/
def State.emptyQueue (b : Branch) (s : State) : State :=
  s.updBr b fun u =>
    { u with
      queue := []
      forwarder := { u.forwarder with flushed := u.forwarder.flushed + BitVec.ofNat 32 u.queue.length } }

/-! ### Pending entries -/

/-- The entry is WAITING on branch b and its fields meet a condition; the request it answers. -/
def PendingEntry.waitingHeader? (b : Branch) (sel : Carried → Bool) : PendingEntry → Option ReqHeader
  | .waiting c t _ => if c.branch = b ∧ sel c then some (.tagged c.kind t) else none
  | .free => none
  | .orphaned _ _ _ => none

/-- The entry is ORPHANED on branch b. -/
def PendingEntry.orphanedOn (b : Branch) : PendingEntry → Bool
  | .orphaned c _ _ => c.branch == b
  | .free => false
  | .waiting _ _ _ => false

/-- The entry holds branch tag t on branch b (R62). -/
def PendingEntry.holdsTag (b : Branch) (t : BTag) : PendingEntry → Bool
  | .free => false
  | .waiting c _ _ => c.branch == b && c.tag == t
  | .orphaned c _ _ => c.branch == b && c.tag == t

/-- What the WAITING entries of branch b that meet a condition are answered under, in ascending order of entry number
(R81). -/
def State.waitingHeaders (s : State) (b : Branch) (sel : Carried → Bool) : List ReqHeader :=
  s.entries.toList.filterMap (PendingEntry.waitingHeader? b sel)

/-- Branch b has a WAITING entry (R129). -/
def State.hasWaiting (s : State) (b : Branch) : Bool :=
  s.entries.toList.any fun e => (e.waitingHeader? b fun _ => true).isSome

/-- The deadline of an orphan hold that begins now on branch b (R70). -/
def State.orphanDeadline (s : State) (b : Branch) : Time :=
  s.now + (s.br b).config.orphanHold * Config.orphanHoldUnit

/-- Count n WAITING entries cut short by a branch event (R86). -/
def State.countCut (n : Nat) (s : State) : State :=
  { s with tracker := { s.tracker with cut := s.tracker.cut + BitVec.ofNat 32 n } }

/-- Count n ORPHANED entries made FREE without a late reply (R86). -/
def State.countAbandoned (n : Nat) (s : State) : State :=
  { s with tracker := { s.tracker with abandoned := s.tracker.abandoned + BitVec.ofNat 32 n } }

/-- The WAITING entries of branch b that meet a condition become ORPHANED with a reported status, and are counted as cut
(R75, R78). -/
def State.orphanWaiting (b : Branch) (sel : Carried → Bool) (status : Status) (s : State) : State :=
  let d := s.orphanDeadline b
  State.countCut (s.waitingHeaders b sel).length
    { s with
      entries := mapTable (fun _ e =>
        match e with
        | .waiting c _ _ => if c.branch = b ∧ sel c then .orphaned c d status else e
        | .free => e
        | .orphaned _ _ _ => e) s.entries }

/-- Every entry of branch b becomes FREE: those that were WAITING are counted as cut, those that were ORPHANED as
abandoned (R76, R77, R79). -/
def State.freeEntries (b : Branch) (s : State) : State :=
  State.countAbandoned (s.entries.toList.countP (PendingEntry.orphanedOn b))
    (State.countCut (s.waitingHeaders b fun _ => true).length
      { s with entries := mapTable (fun _ e => if e.onBranch b then .free else e) s.entries })

/-! ### Attachment records and ranges -/

/-- The record at position p of branch b. -/
def State.record (s : State) (b : Branch) (p : Position) : Record :=
  (s.br b).records[p]

/-- Replace the record at position p of branch b. -/
def State.setRecord (b : Branch) (p : Position) (r : Record) (s : State) : State :=
  s.updBr b fun u => { u with records := u.records.set p.val r p.isLt }

/-- A record in ASSIGNED, UNPLACED or IDENTIFIED, which a link loss makes LOST (R115). -/
def Record.losable : Record → Bool
  | .vacant => false
  | .identified _ _ => true
  | .unplaced _ => true
  | .assigned _ _ => true
  | .lost _ _ => false

/-- The record made LOST, with the range it held (R112, R113, R115). -/
def Record.lose : Record → Record
  | .vacant => .vacant
  | .identified m base => .lost m (some base)
  | .unplaced m => .lost m none
  | .assigned m base => .lost m (some base)
  | .lost m base => .lost m base

/-- The records of branch b at the positions named are made LOST. -/
def State.loseRecords (b : Branch) (sel : Position → Bool) (s : State) : State :=
  s.updBr b fun u => { u with records := mapTable (fun p r => if sel p then r.lose else r) u.records }

/-- Every record of branch b becomes VACANT (R117). -/
def State.vacateRecords (b : Branch) (s : State) : State :=
  s.updBr b fun u => { u with records := Vector.replicate 8 Record.vacant }

/-- The bytes from addr to addr + 4·count − 1 lie wholly within the range of an ASSIGNED record (R36, R46). -/
def Record.admits (r : Record) (addr count : Nat) : Bool :=
  match r with
  | .assigned m base => decide (base.toNat ≤ addr ∧ addr + 4 * count - 1 < base.toNat + 2 ^ m.sizeExp.toNat)
  | .vacant => false
  | .identified _ _ => false
  | .unplaced _ => false
  | .lost _ _ => false

/-- The range a record holds against placement, as its base and size exponent: those of IDENTIFIED, ASSIGNED and LOST
records (R93, R95). -/
def Record.range? (r : Record) : Option (Nat × Nat) :=
  match r.base?, r.member? with
  | some base, some m => some (base.toNat, m.sizeExp.toNat)
  | some _, none => none
  | none, some _ => none
  | none, none => none

/-- The ranges held on a branch, but for the one of position p (R95). -/
def BranchUnit.heldRanges (u : BranchUnit) (p : Position) : List (Nat × Nat) :=
  (List.finRange 8).filterMap fun q => if q = p then none else (u.records[q]).range?

/-- A range of size exponent k at c shares an address with a held range (R95). -/
def overlaps (c k : Nat) (h : Nat × Nat) : Bool :=
  decide (c < h.1 + 2 ^ h.2 ∧ h.1 < c + 2 ^ k)

/-- The lowest candidate from c on that overlaps no held range and ends by the limit. A candidate that overlaps a held
range gives way to the first candidate past that range; fuel bounds how often (R95). -/
def firstFit (held : List (Nat × Nat)) (k base limit : Nat) : Nat → Nat → Option Nat
  | fuel, c =>
    if limit < c + 2 ^ k then none
    else
      match held.find? (overlaps c k) with
      | none => some c
      | some h =>
        match fuel with
        | 0 => none
        | f + 1 => firstFit held k base limit f (base + (h.1 + 2 ^ h.2 - base + 2 ^ k - 1) / 2 ^ k * 2 ^ k)

/-- The base at which a member of size exponent k is placed at position p, if there is room (R95). -/
def BranchUnit.placement (u : BranchUnit) (p : Position) (k : Nat) : Option Nat :=
  let base := u.config.poolBase.toNat
  let held := u.heldRanges p
  firstFit held k base (base + 2 ^ u.config.poolExp) held.length base

/-! ### Enumeration -/

/-- A step begins in the identify phase: an IDENTIFY is handed to the port and the identify timer starts (R100). -/
def State.beginStep (b : Branch) (s : State) : State :=
  (s.updBr b fun u => { u with enumeration := .running .identify (s.now + Config.identifyTimer) }).hand b .identify

/-- An enumeration starts (R98). -/
def State.startEnumeration (b : Branch) (s : State) : State :=
  State.beginStep b
    (s.updBr b fun u =>
      { u with
        outcome := .none
        chain := { u.chain with enumerations := u.chain.enumerations + 1 } })

/-- The enumeration of branch b is left IDLE with an outcome, its timer stopped (steps 1 and 2 of R106). -/
def State.stopEnumeration (b : Branch) (o : EnumOutcome) (s : State) : State :=
  s.updBr b fun u => { u with enumeration := .idle, outcome := o }

/-- An enumeration ends: IDLE, the outcome set, and the ENUM cause raised (R106). -/
def State.endEnumeration (b : Branch) (o : EnumOutcome) (s : State) : State :=
  (s.stopEnumeration b o).raise (.enum b)

/-- The enumeration of branch b is RUNNING. -/
def BranchUnit.enumerating (u : BranchUnit) : Bool :=
  u.enumeration != .idle

/-- A running enumeration is left IDLE with outcome ABORTED; an idle one keeps its last outcome (R108). The ENUM cause
is raised with the event's other causes. -/
def State.abortEnumeration (b : Branch) (s : State) : State :=
  if (s.br b).enumerating then s.stopEnumeration b .aborted else s

/-- Raise the ENUM cause of an enumeration that the event has ended (R106, R108). -/
def State.raiseEnumIf (was : Bool) (b : Branch) (s : State) : State :=
  if was then s.raise (.enum b) else s

/-! ### The branch controller -/

/-- The drain completes: DORMANT, with HUSH handed to the port behind what was handed before, the ORPHANED entries freed
and the sleep counted (R130, R79). -/
def State.completeDrain (b : Branch) (s : State) : State :=
  State.hand b .hush
    (State.freeEntries b
      (s.updBr b fun u =>
        { u with state := .dormant, controller := { u.controller with sleeps := u.controller.sleeps + 1 } }))

/-- Judge the drain: a DRAINING branch with an empty forward queue and no WAITING entry completes it (R129). -/
def State.judgeDrain (b : Branch) (s : State) : State :=
  if (s.br b).state = .draining ∧ (s.br b).queue = [] ∧ s.hasWaiting b = false then s.completeDrain b else s

/-- The entry into WAKING: the wake timer starts and the entry is counted. The port signals wake and trains, unless it
is still sending the frames handed before a HUSH: then it does so when the HUSH has been sent (R136, R195). -/
def State.enterWaking (b : Branch) (s : State) : State :=
  let entered := s.updBr b fun u =>
    { u with
      state := .waking (s.now + Config.wakeTimer)
      controller := { u.controller with wakes := u.controller.wakes + 1 } }
  if (s.br b).port.link = .up then entered else entered.trainBranch b

/-- A branch link loss (R126): DOWN with clear-owed set, every slot and WAITING entry answered LOST, every entry freed,
ASSIGNED, UNPLACED and IDENTIFIED records made LOST with their notices removed, a running enumeration ABORTED
(R55, R76, R108, R115). -/
def State.branchLinkLoss (b : Branch) (s : State) : State :=
  let u := s.br b
  let hs := s.queuedHeaders b ++ s.waitingHeaders b fun _ => true
  let down := (State.abortEnumeration b (State.loseRecords b (fun _ => true)
    (State.freeEntries b (State.emptyQueue b s)))).updBr b fun u =>
      { u with
        state := .down
        clearOwed := true
        controller := { u.controller with linkLosses := u.controller.linkLosses + 1 } }
  down.inOpenOrder (State.answerAll hs .lost) fun s =>
    State.removeNoticesOf b (fun p => (u.records[p]).losable)
      (State.raiseEnumIf u.enumerating b (s.raise (.link b)))

end Sys2Proof.Machine
end

