-- ==== Sys2Proof/Machine/Reset.lean ====
section
/-!
DEFINITION. Link reset and power-on reset, and the RESET input (sections 8.2 and 8.3), with the zeroing of every counter
that power-on reset shares with CLEAR-COUNTERS (R209).
-/

namespace Sys2Proof.Machine

open Sys2Proof

/-- A port with its counters zeroed. -/
def LinkPort.zeroCounters (p : LinkPort) : LinkPort :=
  { p with counters := PortCounters.zero }

/-- A branch with every counter of its record zeroed (R209). -/
def BranchUnit.zeroCounters (u : BranchUnit) : BranchUnit :=
  { u with
    controller := ControllerCounters.zero
    forwarder := ForwarderCounters.zero
    chain := ChainCounters.zero
    port := u.port.zeroCounters }

/-- Zero every counter of the part, the window hit counters among them (R209). -/
def State.zeroCounters (s : State) : State :=
  { s with
    u := { s.u with port := s.u.port.zeroCounters }
    upstream := UpstreamCounters.zero
    windows := mapTable (fun _ w => { w with hits := 0 }) s.windows
    classifier := ClassifierCounters.zero
    mgmt := MgmtCounters.zero
    tracker := TrackerCounters.zero
    branches := mapTable (fun _ u => u.zeroCounters) s.branches
    noticeUnit := NoticeCounters.zero }

/-- A branch port at a reset of either kind taken at time t: a link that trains goes on training, every other is made to
train (R144). -/
def LinkPort.atReset (t : Time) (p : LinkPort) : LinkPort :=
  if p.link = .training then { p with badRun := 0, relistenTimer := none } else p.train t

/-- A branch after a link reset taken at time t: as R122, R59, R118 and R182 state, its counters kept. -/
def BranchUnit.afterLinkReset (t : Time) (u : BranchUnit) : BranchUnit :=
  { state := .down, clearOwed := true, wakeLatch := false, config := BranchConfig.default, controller := u.controller,
    queue := [], forwarder := u.forwarder, records := Vector.replicate 8 Record.vacant, enumeration := .idle,
    outcome := .none, chain := u.chain, port := u.port.atReset t, credit := 0, unsent := [] }

/-- A link reset (R173). S, the identity number and the counters are kept; the U port's link state is the caller's
(R171, R172); the frames that leave the ingress buffer are owed back as credit (R20, R22). -/
def State.linkReset (s : State) : State :=
  { s with
    member := none
    windows := Vector.replicate 32 Window.cleared
    u := { s.u with port := { s.u.port with badRun := 0 }, owed := s.u.owed + s.ingress.length, unsent := [], sending := none }
    ingress := []
    held := false
    tagReg := []
    egress := []
    reservations := 0
    mgmtQueue := []
    entries := Vector.replicate 32 PendingEntry.free
    branches := mapTable (fun _ u => u.afterLinkReset s.now) s.branches
    notices := []
    rePresentTimer := none
    presentationOwed := false
    interval := Config.intervalDefault }

/-- S by the levels of the SPAN straps, true for high (R200). -/
def strapSpan (span1 span0 : Bool) : Nat :=
  match span1, span0 with
  | false, false => 16
  | false, true => 20
  | true, false => 24
  | true, true => 28

/-- A branch whose port starts to train from OFF at time t (R175). -/
def BranchUnit.startPort (t : Time) (u : BranchUnit) : BranchUnit :=
  { u with port := u.port.goOff.train t }

/-- POWER_ON_RESET (R175): every effect of a link reset, every counter zeroed, S read from the straps, both credit counts
0 (R22), and every port training from OFF. -/
def execPowerOnReset (span1 span0 : Bool) (s : State) : Host.Outcome State Fault Refusal :=
  let r := s.linkReset.zeroCounters
  .next
    { r with
      resetPin := false
      spanExp := strapSpan span1 span0
      u := { port := r.u.port.goOff.train r.now, granted := 0, owed := 0, unsent := [], sending := none }
      branches := mapTable (fun _ u => u.startPort r.now) r.branches }

/-- RESET_ASSERTED (R175): every link port is held OFF; the frames handed to a port and not yet sent are discarded, the frame
being sent is cut off, and a branch's transmit credit is 0 (R185, R192). Nothing else changes until the power-on reset of its release (assumption 6). -/
def execResetAsserted (s : State) : Host.Outcome State Fault Refusal :=
  .next
    { s with
      resetPin := true
      u := { s.u with port := s.u.port.goOff, unsent := [], sending := none }
      branches := mapTable (fun _ u => { u with port := u.port.goOff, credit := 0, unsent := [] }) s.branches }

end Sys2Proof.Machine
end

