-- ==== Sys2Proof/Machine/Classifier.lean ====
section
/-!
DEFINITION. The request classifier: the checks of chapter 2, lookup and translation of chapter 1, and the retest of the
held request.
-/

namespace Sys2Proof.Machine

open Sys2Proof

/-- Why the classifier refuses a request: the checks of R25 that answer it. -/
inductive RefuseReason where
  | malformed
  | noroute
  | denied
  | bounds
  | lost
  | absent
  | busy
  deriving DecidableEq, Repr

/-- What the checks decide of a request: refuse it, pass it to the management unit with its span offset, or queue it
bound to a window entry, a branch, a translated address and a position (R14). -/
inductive Verdict where
  | refuse (why : RefuseReason)
  | manage (offset : Nat)
  | enqueue (window : WindowIx) (branch : Branch) (addr : Nat) (position : Position)
  deriving DecidableEq, Repr

/-- The status that answers a refusal (R25). -/
def RefuseReason.status : RefuseReason → Status
  | .malformed => .malformed
  | .noroute => .noroute
  | .denied => .denied
  | .bounds => .bounds
  | .lost => .lost
  | .absent => .absent
  | .busy => .busy

/-- Count a refusal or a drop; the branch check keeps no counter (R35, R41). -/
def ClassifierCounters.count (why : RefuseReason) (c : ClassifierCounters) : ClassifierCounters :=
  match why with
  | .malformed => { c with malformed := c.malformed + 1 }
  | .noroute => { c with noroute := c.noroute + 1 }
  | .denied => { c with denied := c.denied + 1 }
  | .bounds => { c with bounds := c.bounds + 1 }
  | .lost => c
  | .absent => { c with absent := c.absent + 1 }
  | .busy => { c with busy := c.busy + 1 }

/-- The rights set admits the kind of the request (R5). -/
def Rights.admits (r : Rights) : ReqHeader → Bool
  | .tagged .read _ => r.read
  | .tagged .write _ => r.write
  | .tagged .swap _ => r.swap
  | .post => r.post

/-- How many data words a well-formed request of this kind and count carries (R29). -/
def requiredWords (h : ReqHeader) (count : Nat) : Nat :=
  match h with
  | .tagged .read _ => 0
  | .tagged .write _ => count
  | .tagged .swap _ => 1
  | .post => count

/-- The request is a SWAP. -/
def isSwap : ReqHeader → Bool
  | .tagged .swap _ => true
  | .tagged .read _ => false
  | .tagged .write _ => false
  | .post => false

/-- The request is malformed (R29). -/
def Request.malformed (r : Request) : Bool :=
  let n := r.count.toNat
  n == 0 || decide (16 < n) || r.addr.toNat % 4 != 0 || (isSwap r.hdr && n != 1)
    || r.data.length != requiredWords r.hdr n

/-- The window contains a start span offset (R10). -/
def Window.contains (w : Window) (off : Nat) : Bool :=
  w.valid && decide (w.offset.toNat ≤ off ∧ off < w.offset.toNat + 2 ^ w.sizeExp.toNat)

/-- The lowest-numbered valid entry whose window contains a start span offset (R10). -/
def State.lookup (s : State) (off : Nat) : Option WindowIx :=
  (List.finRange 32).find? fun i => (s.windows[i]).contains off

/-- The position whose ASSIGNED record holds the translated range whole (R36). -/
def BranchUnit.holder (u : BranchUnit) (addr count : Nat) : Option Position :=
  (List.finRange 8).find? fun p => (u.records[p]).admits addr count

/-- The branch and attachment checks, and the check of the forward queue (R35, R36, R37). -/
def State.admitTo (s : State) (i : WindowIx) (b : Branch) (addr count : Nat) : Verdict :=
  let u := s.br b
  if u.state = .down ∨ u.state = .failed then .refuse .lost
  else
    match u.holder addr count with
    | none => .refuse .absent
    | some p => if Config.forwardSlots ≤ u.queue.length then .refuse .busy else .enqueue i b addr p

/-- The checks from the unassigned check on (steps 4 to 12 of R25). All sums are exact (R2). -/
def State.route (s : State) (r : Request) : Verdict :=
  match s.member with
  | none => .refuse .noroute
  | some base =>
    let n := r.count.toNat
    if r.addr.toNat < base.toNat ∨ base.toNat + 2 ^ s.spanExp ≤ r.addr.toNat then .refuse .noroute
    else
      let off := r.addr.toNat - base.toNat
      let last := off + 4 * n - 1
      if off < Config.managementBytes then
        if Config.managementBytes ≤ last then .refuse .bounds else .manage off
      else
        match s.lookup off with
        | none => .refuse .noroute
        | some i =>
          let w := s.windows[i]
          if w.rights.admits r.hdr = false then .refuse .denied
          else if w.offset.toNat + 2 ^ w.sizeExp.toNat ≤ last then .refuse .bounds
          else s.admitTo i w.branch (w.target.toNat + (off - w.offset.toNat)) n

/-- The checks from the malformed check on (steps 3 to 12 of R25). -/
def State.classify (s : State) (r : Request) : Verdict :=
  if r.malformed then .refuse .malformed else s.route r

/-- The head leaves the ingress buffer, and the place it frees is owed to the parent, so that a CREDIT is due, behind the frame
that U has begun (R20, R25, R191). -/
def State.dropIngressHead (s : State) : State :=
  { s with ingress := s.ingress.tail, held := false, u := { s.uBegun with owed := s.u.owed + 1 } }

/-- A refusal: a tagged request is answered, a POST is dropped and counted as dropped too (R28, R39, R41). -/
def State.refuseRequest (h : ReqHeader) (why : RefuseReason) (s : State) : State :=
  let c := s.classifier.count why
  match h with
  | .tagged _ t => State.placeReply t why.status 0 [] { s with classifier := c }
  | .post => { s with classifier := { c with postDropped := c.postDropped + 1 } }

/-- The request joins the tail of its branch's forward queue, is counted by its window entry, and wakes a DORMANT branch
(R9, R38, R133). -/
def State.enqueueRequest (r : Request) (i : WindowIx) (b : Branch) (addr : Nat) (p : Position) (s : State) : State :=
  let slot : Slot :=
    { hdr := r.hdr, addr := BitVec.ofNat 32 addr, count := r.count.toNat, data := r.data, position := p, window := i,
      ageDeadline := s.now + (s.br b).config.replyTimeout * Config.replyTimeoutUnit }
  let w := s.windows[i]
  let queued := State.updBr { s with windows := s.windows.set i.val { w with hits := w.hits + 1 } i.isLt } b
    fun u => { u with queue := u.queue ++ [slot] }
  if (s.br b).state = .dormant then queued.enterWaking b else queued

/-- Carry out a verdict on the request at the ingress head. A management request that finds the input queue full stays
there as the held request; in every other case the head leaves the buffer (R25, R28, R32, R38, R39). -/
def State.settle (r : Request) (v : Verdict) (s : State) : State :=
  match v with
  | .refuse why => s.dropIngressHead.refuseRequest r.hdr why
  | .manage off =>
    if s.mgmtQueue.length < Config.managementPlaces then
      State.dropIngressHead
        { s with
          mgmtQueue := s.mgmtQueue ++ [{ hdr := r.hdr, offset := off, count := r.count.toNat, data := r.data }] }
    else { s with held := true }
  | .enqueue i b addr p => s.dropIngressHead.enqueueRequest r i b addr p

/-- Acceptance: the tag enters the tag register and one egress reservation is taken (R27). -/
def State.accept (t : UTag) (s : State) : State :=
  { s with tagReg := s.tagReg ++ [t], reservations := s.reservations + 1 }

/-- A tagged request whose tag is held is discarded without reply, counted, and raises TAGCLASH (R26). -/
def State.discardClash (s : State) : State :=
  State.raise .tagclash
    (State.dropIngressHead
      { s with classifier := { s.classifier with tagClash := s.classifier.tagClash + 1 } })

/-- The held request is put through the checks again from the unassigned check on (R33). -/
def State.retestHeld (s : State) : State :=
  match s.held, s.ingress with
  | true, r :: _ => State.settle r (s.route r) { s with held := false }
  | true, [] => s
  | false, _ => s

/-- The classifier's take (R24 to R39). A tagged head waits while reservations and reply frames fill the reply slots; a
held request is not taken again. -/
def State.takeHead (s : State) : State :=
  match s.held, s.ingress with
  | true, _ => s
  | false, [] => s
  | false, r :: _ =>
    match r.hdr with
    | .post => s.settle r (s.classify r)
    | .tagged _ t =>
      if s.reservations + s.replyFrames < Config.replySlots then
        if s.tagReg.contains t then s.discardClash else (s.accept t).settle r (s.classify r)
      else s

/-- CLASSIFIER_TAKE (R25). -/
def execClassifierTake (s : State) : Host.Outcome State Fault Refusal :=
  .next s.takeHead

end Sys2Proof.Machine
end

