-- ==== Sys2Proof/Machine/Upstream.lean ====
section
/-!
DEFINITION. What arrives on U and what leaves on it: the ingress buffer and its credit (section 2.1), the upstream member
logic (section 8.1) and the egress queue (section 8.4). A frame arriving on U is taken while U is UP (assumption 8).
-/

namespace Sys2Proof.Machine

open Sys2Proof

/-- What a good frame received on U does: nothing unless U is UP, where it also makes the consecutive-bad-frame count 0
(R185, R187). -/
def State.onU (take : State → State) (s : State) : State :=
  if s.u.port.link = .up then take s.goodFrameOnU else s

/-- A request frame enters the ingress buffer against a granted credit, or is an overrun (R19 to R21). -/
def State.receiveRequest (r : Request) (s : State) : State :=
  if s.u.granted = 0 then { s with upstream := { s.upstream with overrun := s.upstream.overrun + 1 } }
  else { s with ingress := s.ingress ++ [r], u := { s.u with granted := s.u.granted - 1 } }

/-- Count an ASSIGN or RELEASE frame that is ignored (R168, R169). -/
def State.countIgnored (s : State) : State :=
  { s with upstream := { s.upstream with ignored := s.upstream.ignored + 1 } }

/-- The owed presentation is made at the part's becoming ASSIGNED, and the owed mark is cleared (R157). -/
def State.makeOwed (s : State) : State :=
  let cleared := { s with presentationOwed := false }
  if s.presentationOwed then cleared.presentationDue else cleared

/-- U_CREDIT_SENT (R20, R191): where the frame on the line is a CREDIT, it has been sent, and the increment it was begun with
is granted. -/
def execUCreditSent (s : State) : Host.Outcome State Fault Refusal :=
  .next
    (match s.onLineU with
    | some (.credit n) =>
      { s with u := { s.uBegun with granted := s.u.granted + n, owed := s.u.owed - n, sending := none } }
    | some .member => s
    | some .egress => s
    | none => s)

/-- U_IDENTIFY (R168). -/
def execUIdentify (s : State) : Host.Outcome State Fault Refusal :=
  .next (s.onU fun s => s.handU (if s.member = none then .descriptor s.descriptor else .empty 0))

/-- U_ASSIGN (R168): taken while UNASSIGNED with a base that is a multiple of 2^S. -/
def execUAssign (base : Word) (s : State) : Host.Outcome State Fault Refusal :=
  .next
    (s.onU fun s =>
      if s.member = none ∧ base.toNat % 2 ^ s.spanExp = 0 then
        State.makeOwed
          (State.handU (.assigned 0)
            { s with member := some base, upstream := { s.upstream with assigns := s.upstream.assigns + 1 } })
      else s.countIgnored)

/-- U_RELEASE (R169): the part's own base makes it UNASSIGNED, and the held request is tested again (R33). -/
def execURelease (base : Word) (s : State) : Host.Outcome State Fault Refusal :=
  .next
    (s.onU fun s =>
      if s.member = some base then
        State.retestHeld
          { s with member := none, upstream := { s.upstream with releases := s.upstream.releases + 1 } }
      else s.countIgnored)

/-- U_CLEAR (R171): a link reset while U stays UP. -/
def execUClear (s : State) : Host.Outcome State Fault Refusal :=
  .next
    (s.onU fun s =>
      State.linkReset { s with upstream := { s.upstream with clears := s.upstream.clears + 1 } })

/-- U_HUSH (R170): U goes QUIET, and signals wake at once if the egress queue holds a frame (R179), be it the one being sent
(R177, R180). The frame being sent is sent to its end (R194), at its own command. The member frames that wait are to leave
first on the new link, ahead of its CREDIT. -/
def execUHush (s : State) : Host.Outcome State Fault Refusal :=
  .next
    (s.onU fun s => State.signalWakeU { s with u := { s.uBegun with
      port := s.u.port.goQuiet
      unsent := s.u.aheadOfCredit } })

/-- U_UNEXPECTED_FRAME (R167), whichever of the kinds it is. -/
def execUUnexpectedFrame (_kind : TowardKind) (s : State) : Host.Outcome State Fault Refusal :=
  .next
    (s.onU fun s => { s with upstream := { s.upstream with unexpected := s.upstream.unexpected + 1 } })

/-- U_CREDIT_RECEIVED (R189), whatever its increment. -/
def execUCreditReceived (_increment : Byte) (s : State) : Host.Outcome State Fault Refusal :=
  .next (s.onU fun s => { s with u := { s.u with port := s.u.port.countDiscarded } })

/-- EGRESS_FRAME_SENT (R177, R191): where the frame on the line is an egress frame, it has been sent, and the oldest frame
leaves the egress queue. -/
def execEgressFrameSent (s : State) : Host.Outcome State Fault Refusal :=
  .next
    (if s.onLineU = some .egress then
      { s with egress := s.egress.tail, u := { s.uBegun with sending := none } }
    else s)

/-- U_MEMBER_FRAME_SENT (R167, R191): where the frame on the line is a member frame, it has been sent, and the oldest member
frame is no longer unsent. -/
def execUMemberFrameSent (s : State) : Host.Outcome State Fault Refusal :=
  .next
    (if s.onLineU = some .member then
      { s with u := { s.uBegun with unsent := s.u.unsent.tail, sending := none } }
    else s)

end Sys2Proof.Machine
end

