-- ==== Sys2Proof/Machine/Link.lean ====
section
/-!
DEFINITION. What the five link ports share (chapter 9): bad frames, leaving UP, training, entering UP, wake signals, branch
credit, and the sending of what was handed to a branch port.
-/

namespace Sys2Proof.Machine

open Sys2Proof

/-- The state of a port. -/
def State.portOf (s : State) (p : Port) : LinkPort :=
  match p with
  | .u => s.u.port
  | .branch b => (s.br b).port

/-- Change the state of a port. -/
def State.updPort (p : Port) (f : LinkPort → LinkPort) (s : State) : State :=
  match p with
  | .u => { s with u := { s.u with port := f s.u.port } }
  | .branch b => s.updBr b fun u => { u with port := f u.port }

/-- The port is sending what stands before a HUSH, or the HUSH: it takes none of the causes of leaving UP (R184). -/
def State.hushWindow (s : State) (p : Port) : Bool :=
  match p with
  | .u => false
  | .branch b => (s.br b).hushWaits

/-- A U link loss: counted, a link reset, and U trains (R172). -/
def State.uLinkLoss (s : State) : State :=
  State.trainU
    (State.linkReset { s with upstream := { s.upstream with linkLosses := s.upstream.linkLosses + 1 } })

/-- The port of branch b leaves UP: what was handed to it is discarded (R185) and it trains; the controller takes it as a
branch link loss while the branch is ACTIVE or DRAINING (R123). -/
def State.branchLeavesUp (b : Branch) (s : State) : State :=
  let trained := State.trainBranch b (s.updBr b fun u => { u with unsent := [] })
  if (s.br b).state = .active ∨ (s.br b).state = .draining then trained.branchLinkLoss b else trained

/-- A port leaves UP other than into QUIET (R184). -/
def State.leaveUp (p : Port) (s : State) : State :=
  match p with
  | .u => s.uLinkLoss
  | .branch b => s.branchLeavesUp b

/-- One of the causes of R184 other than bad frames: it makes a port in UP leave UP, outside the HUSH window. -/
def State.departure (p : Port) (s : State) : State :=
  if (s.portOf p).link = .up ∧ s.hushWindow p = false then s.leaveUp p else s

/-- A bad frame ends at a port (R187): counted, but by a port in OFF, and by one whose quiet re-listen timer runs, which take
nothing from the line (R182, R196). In UP, outside the HUSH window, the consecutive count rises, and at 3 the port leaves
UP. -/
def State.receiveBad (p : Port) (s : State) : State :=
  match (s.portOf p).link with
  | .up =>
    let counted := s.updPort p LinkPort.countBad
    if s.hushWindow p then counted
    else
      let run := (s.portOf p).badRun + 1
      let risen := counted.updPort p fun q => { q with badRun := run }
      if Config.badRunLimit ≤ run then risen.leaveUp p else risen
  | .quiet => if (s.portOf p).relistenTimer = none then s.updPort p LinkPort.countBad else s
  | .training => s.updPort p LinkPort.countBad
  | .off => s

/-- What a good frame received on branch b does: it is taken in UP and in QUIET (R190), and in UP makes the
consecutive-bad-frame count 0 (R187). -/
def State.onBranch (b : Branch) (take : State → State) (s : State) : State :=
  if (s.br b).takesFrames then take (s.goodFrameOn b) else s

/-- A frame with these data words arrives at a port. With more than 16 words it is longer than the longest frame of any kind,
so it is bad (R187); else it is taken as it is. -/
def State.onFrame (p : Port) (data : List Word) (take : State → State) (s : State) : State :=
  if Config.maxWords < data.length then s.receiveBad p else take s

/-- The port of branch b discards a good frame and counts it (R199). -/
def State.discardOn (b : Branch) (s : State) : State :=
  s.updBr b fun u => { u with port := u.port.countDiscarded }

/-- U enters UP: the receive credit counts are set afresh, and the new link sends nothing yet, so that the member frames carried
over leave first, then the CREDIT, then the egress queue (R20, R170, R178). -/
def State.uEntersUp (s : State) : State :=
  { s with u := { s.u with
    port := s.u.port.goUp
    granted := 0
    owed := Config.ingressPlaces - s.ingress.length
    sending := none } }

/-- A branch link enters UP: credit 0; the branch becomes ACTIVE from DOWN or WAKING, and CLEAR is handed first where it
is owed (R125, R127, R137, R183). -/
def State.branchEntersUp (b : Branch) (s : State) : State :=
  let up := s.updBr b fun u =>
    { u with
      port := u.port.goUp
      credit := 0
      state := match u.state with
        | .down => .active
        | .waking _ => .active
        | .active => .active
        | .draining => .draining
        | .dormant => .dormant
        | .failed => .failed }
  if (s.br b).clearOwed then up.hand b .clear else up

/-- A wake by neighbour on branch b (R134): honoured with the latch clear; refused, counted and raised as a cause with
the latch set, and then the port listens again after 1 ms (R196). -/
def State.wakeByNeighbour (b : Branch) (s : State) : State :=
  if (s.br b).wakeLatch then
    State.raise (.wake b)
      (s.updBr b fun u =>
        { u with
          controller := { u.controller with wakesRefused := u.controller.wakesRefused + 1 }
          port := { u.port with relistenTimer := some (s.now + Config.quietRelisten) } })
  else State.enterWaking b (s.updBr b fun u => { u with wakeLatch := true })

/-- A CREDIT arrives on branch b while the link is UP: a valid increment is added, up to 255; an invalid one is discarded
(R192, R193). -/
def State.receiveCredit (b : Branch) (increment : Byte) (s : State) : State :=
  let n := increment.toNat
  if 1 ≤ n ∧ n ≤ 16 then
    s.updBr b fun u =>
      if Config.creditMax < u.credit + n then { u with credit := Config.creditMax, port := u.port.countOverflow }
      else { u with credit := u.credit + n }
  else s.discardOn b

/-- The HUSH of branch b has been sent: the port enters QUIET, or goes on at once into the wake that fell due meanwhile
(R194, R195). -/
def State.afterHush (b : Branch) (s : State) : State :=
  match (s.br b).state with
  | .waking _ => s.trainBranch b
  | .down | .active | .draining | .dormant | .failed =>
    s.updBr b fun u => { u with port := u.port.goQuiet, credit := 0 }

/-- REQUEST_FRAME (R19). -/
def execRequestFrame (hdr : ReqHeader) (addr : Word) (count : Byte) (data : List Word) (s : State) :
    Host.Outcome State Fault Refusal :=
  .next
    (s.onFrame .u data
      (State.onU (State.receiveRequest { hdr := hdr, addr := addr, count := count, data := data })))

/-- BAD_FRAME (R187). -/
def execBadFrame (p : Port) (s : State) : Host.Outcome State Fault Refusal :=
  .next (s.receiveBad p)

/-- FAR_END_TRAINS (R184). -/
def execFarEndTrains (p : Port) (s : State) : Host.Outcome State Fault Refusal :=
  .next (s.departure p)

/-- LOSS_OF_SIGNAL (R184). -/
def execLossOfSignal (p : Port) (s : State) : Host.Outcome State Fault Refusal :=
  .next (s.departure p)

/-- UNKNOWN_FRAME_DISCARDED (R188). -/
def execUnknownFrameDiscarded (p : Port) (s : State) : Host.Outcome State Fault Refusal :=
  match p with
  | .u => .next (s.onU fun s => { s with u := { s.u with port := s.u.port.countDiscarded } })
  | .branch b => .next (s.onBranch b (State.discardOn b))

/-- BRANCH_AWAY_FRAME (R190), whichever of the kinds it is. -/
def execBranchAwayFrame (b : Branch) (_kind : AwayKind) (s : State) : Host.Outcome State Fault Refusal :=
  .next (s.onBranch b (State.discardOn b))

/-- TRAINING_ATTEMPT_TIMEOUT (R183): the attempt is counted and a new one begins. -/
def execTrainingAttemptTimeout (p : Port) (s : State) : Host.Outcome State Fault Refusal :=
  .next
    (match (s.portOf p).link, (s.portOf p).attemptTimer with
    | .training, some d =>
      s.runOut d fun t =>
        t.updPort p fun q => { q.countAttempt with attemptTimer := some (t.now + Config.trainingAttempt) }
    | .training, none => s
    | .off, _ => s
    | .up, _ => s
    | .quiet, _ => s)

/-- LINK_ENTERS_UP (R183): a port in TRAINING enters UP. -/
def execLinkEntersUp (p : Port) (s : State) : Host.Outcome State Fault Refusal :=
  .next
    (if (s.portOf p).link = .training then
      match p with
      | .u => s.uEntersUp
      | .branch b => s.branchEntersUp b
    else s)

/-- WAKE_TAKEN (R196): a port in QUIET takes a wake; while the re-listen timer runs it takes nothing. -/
def execWakeTaken (p : Port) (s : State) : Host.Outcome State Fault Refusal :=
  .next
    (if (s.portOf p).link = .quiet ∧ (s.portOf p).relistenTimer = none then
      match p with
      | .u => s.trainU
      | .branch b => s.wakeByNeighbour b
    else s)

/-- QUIET_RELISTEN_TIMEOUT (R196): the port takes a wake again if the far end is still signalling. -/
def execQuietRelistenTimeout (b : Branch) (stillSignalling : Bool) (s : State) : Host.Outcome State Fault Refusal :=
  .next
    (match (s.br b).port.link, (s.br b).port.relistenTimer with
    | .quiet, some d =>
      s.runOut d fun t =>
        let t := t.updBr b fun u => { u with port := { u.port with relistenTimer := none } }
        if stillSignalling then t.wakeByNeighbour b else t
    | .quiet, none => s
    | .off, _ => s
    | .training, _ => s
    | .up, _ => s)

/-- CREDIT (R192): taken in UP; one that arrives in QUIET is dropped without count. -/
def execCredit (b : Branch) (increment : Byte) (s : State) : Host.Outcome State Fault Refusal :=
  .next (if (s.br b).port.link = .up then State.receiveCredit b increment (s.goodFrameOn b) else s)

/-- HUSH_SENT (R194): the HUSH is the next frame of the port's order. -/
def execHushSent (b : Branch) (s : State) : Host.Outcome State Fault Refusal :=
  .next
    (match (s.br b).unsent with
    | .hush :: rest =>
      if (s.br b).port.link = .up then State.afterHush b (s.updBr b fun u => { u with unsent := rest }) else s
    | _ => s)

/-- BRANCH_FRAME_SENT (R191): the next frame of the port's order leaves, where it is a request, IDENTIFY, ASSIGN or
RELEASE frame; CLEAR and HUSH have commands of their own. -/
def execBranchFrameSent (b : Branch) (s : State) : Host.Outcome State Fault Refusal :=
  .next
    (match (s.br b).unsent with
    | [] => s
    | .clear :: _ => s
    | .resetClear :: _ => s
    | .hush :: _ => s
    | .tagged _ _ _ _ _ :: rest | .post _ _ _ :: rest | .identify :: rest | .assign _ :: rest | .release _ :: rest =>
      if (s.br b).port.link = .up then s.updBr b fun u => { u with unsent := rest } else s)

end Sys2Proof.Machine
end

