-- ==== Sys2Proof/Machine/Forward.lean ====
section
/-!
DEFINITION. The forwarder: the issue conditions, the issue-time recheck, issue, and aging (chapter 3).
-/

namespace Sys2Proof.Machine

open Sys2Proof

/-- The lowest-numbered branch tag that no entry of branch b holds (R44, R48). -/
def State.freeTag (s : State) (b : Branch) : Option BTag :=
  ((List.range 16).map (BitVec.ofNat 4)).find? fun t => !(s.entries.toList.any (PendingEntry.holdsTag b t))

/-- The lowest-numbered FREE entry (R48, R64). -/
def State.freeEntry (s : State) : Option EntryIx :=
  (List.finRange 32).find? fun e => s.entry e == .free

/-- The issue conditions that any head needs (R44): ACTIVE or DRAINING, the link UP with a credit, and no CLEAR owed. -/
def BranchUnit.mayIssue (u : BranchUnit) : Bool :=
  (u.state == .active || u.state == .draining) && u.port.link == .up && decide (1 ≤ u.credit) && !u.clearOwed

/-- What a tagged head takes at its issue, where the further conditions of R44 hold: a free branch tag, a FREE entry, and
an entry count below the outstanding limit. -/
def State.issueRoom (s : State) (b : Branch) : Option (BTag × EntryIx) :=
  if s.entryCount b < (s.br b).config.limit then
    match s.freeTag b, s.freeEntry with
    | some t, some e => some (t, e)
    | some _, none => none
    | none, _ => none
  else none

/-- The recheck of the head against the record at its position (R46). -/
def State.recheckPasses (s : State) (b : Branch) (q : Slot) : Bool :=
  (s.record b q.position).admits q.addr.toNat q.count

/-- The head leaves the queue. -/
def State.popSlot (b : Branch) (s : State) : State :=
  s.updBr b fun u => { u with queue := u.queue.tail }

/-- A head that fails the recheck is removed and answered ABSENT, or dropped if a POST, and counted (R47). -/
def State.failRecheck (b : Branch) (q : Slot) (s : State) : State :=
  State.judgeDrain b
    (State.answer q.hdr .absent
      ((s.popSlot b).updBr b fun u =>
        { u with forwarder := { u.forwarder with recheck := u.forwarder.recheck + 1 } }))

/-- The head is handed to the port as a frame: it leaves the queue, one credit is spent and the issue is counted
(R48, R49). -/
def State.sendHead (b : Branch) (f : BranchFrame) (s : State) : State :=
  State.hand b f
    ((s.popSlot b).updBr b fun u =>
      { u with
        credit := u.credit - 1
        forwarder := { u.forwarder with issued := u.forwarder.issued + 1 } })

/-- A tagged head is issued under a branch tag, as an entry that becomes WAITING (R48, R64). -/
def State.issueTagged (b : Branch) (q : Slot) (k : TaggedKind) (ut : UTag) (t : BTag) (e : EntryIx) (s : State) : State :=
  let c : Carried := { branch := b, tag := t, kind := k, position := q.position, count := q.count }
  let deadline := s.now + (s.br b).config.replyTimeout * Config.replyTimeoutUnit
  State.sendHead b (.tagged k t q.addr q.count q.data) (s.setEntry e (.waiting c ut deadline))

/-- A POST head is issued: no entry and no tag; it may be what a drain waited for (R49, R129). -/
def State.issuePost (b : Branch) (q : Slot) (s : State) : State :=
  State.judgeDrain b (State.sendHead b (.post q.addr q.count q.data) s)

/-- The issue test of the head of branch b's queue (R44 to R49): where a condition fails, the head waits. -/
def State.issueHead (b : Branch) (s : State) : State :=
  match (s.br b).queue with
  | [] => s
  | q :: _ =>
    if (s.br b).mayIssue then
      match q.hdr with
      | .post => if s.recheckPasses b q then s.issuePost b q else s.failRecheck b q
      | .tagged k ut =>
        match s.issueRoom b with
        | none => s
        | some (t, e) => if s.recheckPasses b q then s.issueTagged b q k ut t e else s.failRecheck b q
    else s

/-- The earliest age deadline among slots. -/
def earliestDeadline : List Slot → Option Time
  | [] => none
  | q :: rest =>
    match earliestDeadline rest with
    | none => some q.ageDeadline
    | some d => some (min q.ageDeadline d)

/-- The slots whose age deadlines have run out leave together, answered TIMEOUT in queue order, or dropped if POSTs, and
are counted (R53). -/
def State.ageSlots (b : Branch) (s : State) : State :=
  let out := (s.br b).queue.filter fun q => decide (q.ageDeadline ≤ s.now)
  State.judgeDrain b
    (State.answerAll (out.map Slot.hdr) .timeout
      (s.updBr b fun u =>
        { u with
          queue := u.queue.filter fun q => !decide (q.ageDeadline ≤ s.now)
          forwarder := { u.forwarder with aged := u.forwarder.aged + BitVec.ofNat 32 out.length } }))

/-- ISSUE (R44). -/
def execIssue (b : Branch) (s : State) : Host.Outcome State Fault Refusal :=
  .next (s.issueHead b)

/-- AGE_DEADLINE_EXPIRY (R53): the earliest age deadline of branch b's queue runs out. -/
def execAgeDeadlineExpiry (b : Branch) (s : State) : Host.Outcome State Fault Refusal :=
  .next
    (match earliestDeadline (s.br b).queue with
    | none => s
    | some d => s.runOut d (State.ageSlots b))

end Sys2Proof.Machine
end

