-- ==== Sys2Proof/Machine/Tracker.lean ====
section
/-!
DEFINITION. The transaction tracker: replies from a branch and the two deadlines of a pending entry (chapter 4).
-/

namespace Sys2Proof.Machine

open Sys2Proof

/-- The entry of branch b that holds a tag of a REPLY; a tag of 16 or more is held by none (R65, R190). -/
def State.entryFor (s : State) (b : Branch) (tag : UTag) : Option EntryIx :=
  if tag.toNat < 16 then
    (List.finRange 32).find? fun e => (s.entry e).holdsTag b (BitVec.ofNat 4 tag.toNat)
  else none

/-- The data words an OK REPLY must carry for the kind and count of its request (R66). -/
def okWords (k : TaggedKind) (count : Nat) : Nat :=
  match k with
  | .read => count
  | .write => 0
  | .swap => 1

/-- The status under which a REPLY is passed upward, if it is well formed (R66). -/
def wellFormedStatus (c : Carried) (status : Byte) (words : Nat) : Option Status :=
  match Status.ofByte status with
  | none => none
  | some .ok => if words = okWords c.kind c.count then some .ok else none
  | some st => if words = 0 then some st else none

/-- Place upward the REPLY of a matched entry: as it came where it is well formed, else BADREPLY with detail 0 and no
data, counted (R66, R67). -/
def State.passUpward (c : Carried) (ut : UTag) (status detail : Byte) (data : List Word) (s : State) : State :=
  match wellFormedStatus c status data.length with
  | some st => s.placeReply ut st detail data
  | none =>
    State.placeReply ut .badreply 0 [] { s with tracker := { s.tracker with badreply := s.tracker.badreply + 1 } }

/-- The tracker takes a REPLY of branch b (R65, R67 to R69). -/
def State.takeReply (b : Branch) (tag : UTag) (status detail : Byte) (data : List Word) (s : State) : State :=
  match s.entryFor b tag with
  | none => { s with tracker := { s.tracker with stray := s.tracker.stray + 1 } }
  | some e =>
    match s.entry e with
    | .free => s
    | .waiting c ut _ => State.judgeDrain b ((s.setEntry e .free).passUpward c ut status detail data)
    | .orphaned _ _ _ =>
      { s.setEntry e .free with tracker := { s.tracker with late := s.tracker.late + 1 } }

/-- REPLY (R65). -/
def execReply (b : Branch) (tag : UTag) (status detail : Byte) (data : List Word) (s : State) :
    Host.Outcome State Fault Refusal :=
  .next (s.onFrame (.branch b) data (State.onBranch b (State.takeReply b tag status detail data)))

/-- The reply deadline of a WAITING entry has run out (R70). -/
def State.replyTimedOut (e : EntryIx) (c : Carried) (ut : UTag) (s : State) : State :=
  let orphaned := s.setEntry e (.orphaned c (s.orphanDeadline c.branch) .timeout)
  State.judgeDrain c.branch
    (State.placeReply ut .timeout 0 []
      { orphaned with tracker := { orphaned.tracker with timeout := orphaned.tracker.timeout + 1 } })

/-- REPLY_DEADLINE_EXPIRY (R70): TIMEOUT is placed upward and the entry becomes ORPHANED. -/
def execReplyDeadlineExpiry (e : EntryIx) (s : State) : Host.Outcome State Fault Refusal :=
  .next
    (match s.entry e with
    | .waiting c ut d => s.runOut d (State.replyTimedOut e c ut)
    | .free => s
    | .orphaned _ _ _ => s)

/-- ORPHAN_DEADLINE_EXPIRY (R71): the entry becomes FREE and is counted as abandoned. -/
def execOrphanDeadlineExpiry (e : EntryIx) (s : State) : Host.Outcome State Fault Refusal :=
  .next
    (match s.entry e with
    | .orphaned _ d _ => s.runOut d fun t => (t.setEntry e .free).countAbandoned 1
    | .free => s
    | .waiting _ _ _ => s)

end Sys2Proof.Machine
end

