-- ==== Sys2Proof/Machine/Chain.lean ====
section
/-!
DEFINITION. The chain controller: the steps of an enumeration, breaks and mends (chapter 5).
-/

namespace Sys2Proof.Machine

open Sys2Proof

/-- Count a frame that is not awaited (R107). -/
def State.countUnexpected (b : Branch) (s : State) : State :=
  s.updBr b fun u => { u with chain := { u.chain with unexpected := u.chain.unexpected + 1 } }

/-- A hop count as a position; above 7 it names a member beyond the eighth place (R87). -/
def hopPosition (hop : Byte) : Option Position :=
  if h : hop.toNat < 8 then some ⟨hop.toNat, h⟩ else none

/-- The record at p becomes IDENTIFIED with a range: the ASSIGN is handed to the port, the identify timer restarts, and
the assign phase begins with p as the working position (R102). -/
def State.assignRange (b : Branch) (p : Position) (m : Member) (base : Word) (s : State) : State :=
  State.hand b (.assign base)
    ((s.setRecord b p (.identified m base)).updBr b fun u =>
      { u with enumeration := .running (.assign p) (s.now + Config.identifyTimer) })

/-- A member is placed at position p: IDENTIFIED where there is room, else UNPLACED with the enumeration ended
POOL_EXHAUSTED (R95, R102). -/
def State.placeMember (b : Branch) (p : Position) (m : Member) (s : State) : State :=
  match (s.br b).placement p m.sizeExp.toNat with
  | some base => s.assignRange b p m (BitVec.ofNat 32 base)
  | none => (s.setRecord b p (.unplaced m)).endEnumeration b .poolExhausted

/-- The range a LOST record gives back to a returning member: that of the same identity and size exponent (R96). -/
def Record.reclaimBase? (r : Record) (m : Member) : Option Word :=
  match r with
  | .lost old base => if old.identity = m.identity ∧ old.sizeExp = m.sizeExp then base else none
  | .vacant => none
  | .identified _ _ => none
  | .unplaced _ => none
  | .assigned _ _ => none

/-- A DESCRIPTOR awaited at a position is judged by the record there (R96, R101, R102). -/
def State.takeDescriptorAt (b : Branch) (p : Position) (m : Member) (s : State) : State :=
  match s.record b p with
  | .assigned _ _ => s.endEnumeration b .conflict
  | .vacant | .identified _ _ | .unplaced _ => s.placeMember b p m
  | .lost old range =>
    match (Record.lost old range).reclaimBase? m with
    | some base =>
      State.assignRange b p m base
        (s.updBr b fun u => { u with chain := { u.chain with reclaimed := u.chain.reclaimed + 1 } })
    | none => s.placeMember b p m

/-- A DESCRIPTOR taken by the chain controller (R101, R102, R107). -/
def State.takeDescriptor (b : Branch) (m : Member) (hop : Byte) (s : State) : State :=
  match (s.br b).enumeration with
  | .running .identify _ =>
    match hopPosition hop with
    | none => s.endEnumeration b .tooMany
    | some p => s.takeDescriptorAt b p m
  | .running (.assign _) _ => s.countUnexpected b
  | .idle => s.countUnexpected b

/-- The record at the working position becomes ASSIGNED, keeping its range (R103). -/
def Record.assign : Record → Record
  | .identified m base => .assigned m base
  | .vacant => .vacant
  | .unplaced m => .unplaced m
  | .assigned m base => .assigned m base
  | .lost m base => .lost m base

/-- An ASSIGNED taken by the chain controller (R103, R107). -/
def State.takeAssigned (b : Branch) (hop : Byte) (s : State) : State :=
  match (s.br b).enumeration with
  | .running (.assign p) _ =>
    if hop.toNat = p.val then
      State.beginStep b
        ((s.setRecord b p (s.record b p).assign).updBr b fun u =>
          { u with chain := { u.chain with assigned := u.chain.assigned + 1 } })
    else (s.setRecord b p .vacant).endEnumeration b .conflict
  | .running .identify _ => s.countUnexpected b
  | .idle => s.countUnexpected b

/-- An EMPTY taken by the chain controller (R104, R107). -/
def State.takeEmpty (b : Branch) (s : State) : State :=
  match (s.br b).enumeration with
  | .running .identify _ => s.endEnumeration b .done
  | .running (.assign _) _ => s.countUnexpected b
  | .idle => s.countUnexpected b

/-- The identify timer runs out (R105). -/
def State.identifyTimeout (b : Branch) (s : State) : State :=
  match (s.br b).enumeration with
  | .running .identify d => s.runOut d fun t => t.endEnumeration b .noAnswer
  | .running (.assign p) d => s.runOut d fun t => (t.setRecord b p .vacant).endEnumeration b .noAnswer
  | .idle => s

/-- The working position of an assign phase (R97). -/
def BranchUnit.workingPosition (u : BranchUnit) : Option Position :=
  match u.enumeration with
  | .running (.assign p) _ => some p
  | .running .identify _ => none
  | .idle => none

/-- A chain break with hop count k ends the enumeration: its assign phase works beyond the break (R113). -/
def BranchUnit.breakEnds (u : BranchUnit) (k : Nat) : Bool :=
  match u.workingPosition with
  | some p => decide (k < p.val)
  | none => false

/-- The record at position p is made LOST by a chain break with hop count k: ASSIGNED or UNPLACED beyond the break
(R112), or the IDENTIFIED record of an assign phase beyond it (R113). -/
def BranchUnit.breakLoses (u : BranchUnit) (k : Nat) (p : Position) : Bool :=
  decide (k < p.val) &&
    match u.records[p] with
    | .assigned _ _ => true
    | .unplaced _ => true
    | .identified _ _ => u.workingPosition == some p
    | .vacant => false
    | .lost _ _ => false

/-- A CHAINBREAK with hop count k taken on branch b (R75, R112, R113). -/
def State.takeBreak (b : Branch) (k : Nat) (s : State) : State :=
  let u := s.br b
  let beyond : Carried → Bool := fun c => decide (k < c.position.val)
  let hs := s.waitingHeaders b beyond
  let lost := State.loseRecords b (u.breakLoses k) (State.orphanWaiting b beyond .lost s)
  let ended := if u.breakEnds k then lost.stopEnumeration b .aborted else lost
  let counted := ended.updBr b fun v => { v with chain := { v.chain with breaks := v.chain.breaks + 1 } }
  State.judgeDrain b
    (counted.inOpenOrder (State.answerAll hs .lost) fun s =>
      State.removeNoticesOf b (u.breakLoses k) (State.raiseEnumIf (u.breakEnds k) b (s.raise (.chain b))))

/-- A CHAINMEND taken on branch b (R114). -/
def State.takeMend (b : Branch) (s : State) : State :=
  let u := s.br b
  let raised :=
    State.raise (.chain b)
      (s.updBr b fun v => { v with chain := { v.chain with mends := v.chain.mends + 1 } })
  if u.config.autoEnumerate ∧ u.state = .active ∧ u.enumeration = .idle then raised.startEnumeration b else raised

/-- A CLEAR waits in the port of the branch, of either kind (R127, R141). -/
def BranchUnit.clearWaits (u : BranchUnit) : Bool :=
  u.unsent.contains .clear || u.unsent.contains .resetClear

/-- A CLEAR of branch b has been sent: clear-owed is cleared, unless a later BRANCH-RESET has handed another CLEAR that still
waits (assumption 13), and an enumeration starts where auto-enumerate is set and none is RUNNING (R99, R127, R218). -/
def State.clearSent (b : Branch) (s : State) : State :=
  let u := s.br b
  let sent := s.updBr b fun v => { v with clearOwed := v.clearOwed && v.clearWaits }
  if u.config.autoEnumerate ∧ u.enumeration = .idle then sent.startEnumeration b else sent

/-- DESCRIPTOR (R102). -/
def execDescriptor (b : Branch) (cls : BitVec 16) (identity : Word) (sizeExp : Byte) (flags : MemberFlags) (hop : Byte)
    (s : State) : Host.Outcome State Fault Refusal :=
  .next
    (s.onBranch b
      (State.takeDescriptor b { cls := cls, identity := identity, sizeExp := sizeExp, flags := flags } hop))

/-- ASSIGNED (R103). -/
def execAssigned (b : Branch) (hop : Byte) (s : State) : Host.Outcome State Fault Refusal :=
  .next (s.onBranch b (State.takeAssigned b hop))

/-- EMPTY (R104), whatever its hop count. -/
def execEmpty (b : Branch) (_hop : Byte) (s : State) : Host.Outcome State Fault Refusal :=
  .next (s.onBranch b (State.takeEmpty b))

/-- IDENTIFY_TIMER_EXPIRY (R105). -/
def execIdentifyTimerExpiry (b : Branch) (s : State) : Host.Outcome State Fault Refusal :=
  .next (s.identifyTimeout b)

/-- CHAINBREAK (R112). -/
def execChainbreak (b : Branch) (hop : Byte) (s : State) : Host.Outcome State Fault Refusal :=
  .next (s.onBranch b (State.takeBreak b hop.toNat))

/-- CHAINMEND (R114), whatever its hop count. -/
def execChainmend (b : Branch) (_hop : Byte) (s : State) : Host.Outcome State Fault Refusal :=
  .next (s.onBranch b (State.takeMend b))

/-- BRANCH_CLEAR_SENT (R127): the CLEAR is the next frame of the port's order. -/
def execBranchClearSent (b : Branch) (s : State) : Host.Outcome State Fault Refusal :=
  .next
    (match (s.br b).unsent with
    | .clear :: rest | .resetClear :: rest =>
      if (s.br b).port.link = .up then State.clearSent b (s.updBr b fun u => { u with unsent := rest }) else s
    | _ => s)

end Sys2Proof.Machine
end

