-- ==== Sys2Proof/Machine/Branch.lean ====
section
/-!
DEFINITION. The branch controller's own happenings (chapter 6): the completion of a drain and the running out of the wake
timer. Its commands stand in Management.lean, its answer to a link in Link.lean.
-/

namespace Sys2Proof.Machine

open Sys2Proof

/-- The wake timer of branch b has run out (R138): FAILED with the link OFF, slots and WAITING entries answered LOST,
entries freed, records made LOST with their notices removed, the WAKE cause raised (R56, R77, R116). The frames that a
port still sending before a HUSH held are discarded with the link (assumption 10). -/
def State.wakeFails (b : Branch) (s : State) : State :=
  let u := s.br b
  let hs := s.queuedHeaders b ++ s.waitingHeaders b fun _ => true
  let failed := (State.loseRecords b (fun _ => true) (State.freeEntries b (State.emptyQueue b s))).updBr b fun u =>
    { u with
      state := .failed
      port := u.port.goOff
      credit := 0
      unsent := []
      controller := { u.controller with wakeFailures := u.controller.wakeFailures + 1 } }
  failed.inOpenOrder (State.answerAll hs .lost) fun s =>
    State.removeNoticesOf b (fun p => (u.records[p]).losable) (s.raise (.wake b))

/-- DRAIN_COMPLETE (R130): the branch controller judges the drain. The other commands judge it too, at the happenings
R129 lists (assumption 7). -/
def execDrainComplete (b : Branch) (s : State) : Host.Outcome State Fault Refusal :=
  .next (s.judgeDrain b)

/-- WAKE_TIMER_EXPIRY (R138). -/
def execWakeTimerExpiry (b : Branch) (s : State) : Host.Outcome State Fault Refusal :=
  .next
    (match (s.br b).state with
    | .waking d => s.runOut d (State.wakeFails b)
    | .down | .active | .draining | .dormant | .failed => s)

end Sys2Proof.Machine
end

