-- ==== Sys2Proof/Machine/Notice.lean ====
section
/-!
DEFINITION. What reaches the notice unit from outside it (chapter 7): an ATTENTION from a branch and the running out of the
re-present timer. Its operations stand in Flags.lean.
-/

namespace Sys2Proof.Machine

open Sys2Proof

/-- The record is ASSIGNED (R150). -/
def Record.isAssigned : Record → Bool
  | .assigned _ _ => true
  | .vacant => false
  | .identified _ _ => false
  | .unplaced _ => false
  | .lost _ _ => false

/-- Count a discarded ATTENTION (R151). -/
def State.discardAttention (s : State) : State :=
  { s with noticeUnit := { s.noticeUnit with discarded := s.noticeUnit.discarded + 1 } }

/-- An ATTENTION taken by the notice unit (R150, R151). -/
def State.takeAttention (b : Branch) (code : Byte) (hop : Byte) (s : State) : State :=
  match hopPosition hop with
  | none => s.discardAttention
  | some p =>
    if (s.record b p).isAssigned then
      if s.hasNotice (.attachment b p) then s.mergeNotice (.attachment b p) 0
      else s.joinNotice (.attachment b p code)
    else s.discardAttention

/-- ATTENTION (R150). -/
def execAttention (b : Branch) (code : Byte) (hop : Byte) (s : State) : Host.Outcome State Fault Refusal :=
  .next (s.onBranch b (State.takeAttention b code hop))

/-- RE_PRESENT_TIMER_EXPIRY (R155). -/
def execRePresentTimerExpiry (s : State) : Host.Outcome State Fault Refusal :=
  .next
    (match s.rePresentTimer with
    | some d => s.runOut d fun t => State.presentationDue { t with rePresentTimer := none }
    | none => s)

end Sys2Proof.Machine
end

