-- ==== Sys2Proof/Machine/Management.lean ====
section
/-!
DEFINITION. The management unit (chapter 10): which row of the table an execution is, reading, the four steps that judge a
write, its application record by record, and the owners' commands.
-/

namespace Sys2Proof.Machine

open Sys2Proof

/-! ### Which row an execution is (assumption 11) -/

/-- The rows of the table that stand for executions of the management unit. -/
inductive MgmtRow where
  | read
  | write
  | windowEntry
  | configuration
  | interval
  | swap
  | enumerate
  | release
  | branchReset
  | dormant
  | wake
  | noticeAck
  | clearCounters
  deriving DecidableEq, Repr

/-- The row of the command code in a command word; a code that names no command has no row of its own (R208). -/
def MgmtRequest.commandRow? (r : MgmtRequest) : WordRecord → Option MgmtRow
  | .globalCommand =>
    match bitsOf (r.wordAt globalCommandOffset) 3 0 with
    | 1 => some .noticeAck
    | 2 => some .clearCounters
    | _ => some .write
  | .branchCommand b =>
    match bitsOf (r.wordAt (branchCommandOffset b)) 3 0 with
    | 1 => some .enumerate
    | 2 => some .release
    | 3 => some .branchReset
    | 4 => some .dormant
    | 5 => some .wake
    | _ => some .write
  | .unmapped => none
  | .readOnly => none
  | .window _ _ => none
  | .config _ _ => none
  | .interval => none

/-- The word belongs to a configuration record. -/
def WordRecord.isConfig : WordRecord → Bool
  | .config _ _ => true
  | .unmapped | .readOnly | .window _ _ | .interval | .globalCommand | .branchCommand _ => false

/-- The word belongs to a window entry. -/
def WordRecord.isWindow : WordRecord → Bool
  | .window _ _ => true
  | .unmapped | .readOnly | .config _ _ | .interval | .globalCommand | .branchCommand _ => false

/-- The word is a command word. -/
def WordRecord.isCommand : WordRecord → Bool
  | .globalCommand => true
  | .branchCommand _ => true
  | .unmapped | .readOnly | .window _ _ | .config _ _ | .interval => false

/-- The row that a WRITE or POST executes as: that of the one command it carries, else that of the records it writes to,
else MANAGEMENT_WRITE. -/
def MgmtRequest.writeRow (r : MgmtRequest) : MgmtRow :=
  match r.records.filterMap r.commandRow? with
  | [row] => row
  | _ :: _ :: _ => .write
  | [] =>
    if r.records.any WordRecord.isConfig then .configuration
    else if r.records.any WordRecord.isWindow then .windowEntry
    else if r.records.contains .interval then .interval
    else .write

/-- The row that the execution of a management request is. -/
def MgmtRequest.row (r : MgmtRequest) : MgmtRow :=
  match r.hdr with
  | .tagged .read _ => .read
  | .tagged .swap _ => .swap
  | .tagged .write _ => r.writeRow
  | .post => r.writeRow

/-! ### Commands and their owners (R208) -/

/-- The owner accepts the command in the present state (R98, R110, R128, R132, R140, R158, R209). -/
def State.commandAccepted (s : State) (c : Command) : Bool :=
  match c with
  | .enumerate b => (s.br b).state == .active && !(s.br b).enumerating
  | .release b p =>
    match s.record b p with
    | .assigned _ _ => (s.br b).state == .active || (s.br b).state == .draining
    | .lost _ _ => true
    | .unplaced _ => true
    | .identified _ _ => false
    | .vacant => false
  | .branchReset _ => true
  | .dormant b => (s.br b).state == .active && !(s.br b).clearOwed && !(s.br b).enumerating
  | .wake _ => true
  | .noticeAck src causes => s.ackAccepted src causes
  | .clearCounters => true

/-- An accepted RELEASE: the record becomes VACANT, a RELEASE frame is handed for an ASSIGNED one, and the notice of the
position is removed (R110, R111). -/
def State.releaseRecord (b : Branch) (p : Position) (s : State) : State :=
  let told := match s.record b p with
    | .assigned _ base => s.hand b (.release base)
    | .vacant | .identified _ _ | .unplaced _ | .lost _ _ => s
  State.removeNoticesOf b (· == p) (told.setRecord b p .vacant)

/-- The branch state after a BRANCH-RESET, and what the port is given to do (R141). A CLEAR owed by the link's entry into UP
that still waits in the port serves. -/
def State.resetBranchState (b : Branch) (s : State) : State :=
  let active := s.updBr b fun u => { u with state := .active }
  let cleared := if (s.br b).unsent.contains .clear then active else active.hand b .resetClear
  match (s.br b).state with
  | .active => cleared
  | .draining => cleared
  | .dormant => s.enterWaking b
  | .failed => s.enterWaking b
  | .waking _ => s
  | .down => s

/-- An accepted BRANCH-RESET (R140, R141, R57, R78, R108, R117). -/
def State.resetBranch (b : Branch) (s : State) : State :=
  let u := s.br b
  let hs := s.queuedHeaders b ++ s.waitingHeaders b fun _ => true
  let wiped := (State.abortEnumeration b (State.vacateRecords b
    (State.orphanWaiting b (fun _ => true) .flushed (State.emptyQueue b s)))).updBr b fun v =>
      { v with clearOwed := true, wakeLatch := false }
  (wiped.resetBranchState b).inOpenOrder (State.answerAll hs .flushed) fun s =>
    State.removeNoticesOf b (fun _ => true) (State.raiseEnumIf u.enumerating b s)

/-- An accepted DORMANT: DRAINING, and the drain judged at the same happening (R128). -/
def State.beginDrain (b : Branch) (s : State) : State :=
  State.judgeDrain b (s.updBr b fun u => { u with state := .draining })

/-- A WAKE: the latch is cleared; a drain is cancelled, a DORMANT or FAILED branch becomes WAKING (R132). -/
def State.wakeBranch (b : Branch) (s : State) : State :=
  let s := s.updBr b fun u => { u with wakeLatch := false }
  match (s.br b).state with
  | .draining => s.updBr b fun u => { u with state := .active }
  | .dormant => s.enterWaking b
  | .failed => s.enterWaking b
  | .active => s
  | .down => s
  | .waking _ => s

/-- An accepted command takes effect at its owner (R208). -/
def State.applyCommand (c : Command) (s : State) : State :=
  match c with
  | .enumerate b => s.startEnumeration b
  | .release b p => s.releaseRecord b p
  | .branchReset b => s.resetBranch b
  | .dormant b => s.beginDrain b
  | .wake b => s.wakeBranch b
  | .noticeAck src causes => s.ackNotice src causes
  | .clearCounters => s.zeroCounters

/-! ### Judging a write (R205) -/

/-- The command a word of a write names, if it is a command word that names one. -/
def MgmtRequest.command? (r : MgmtRequest) : WordRecord → Option Command
  | .globalCommand => globalCommand (r.wordAt globalCommandOffset)
  | .branchCommand b => branchCommand b (r.wordAt (branchCommandOffset b))
  | .unmapped | .readOnly | .window _ _ | .config _ _ | .interval => none

/-- A valid window entry meets the conditions of R6, judged against S; an entry with valid clear meets none of them
necessarily (R7). -/
def Window.lawful (spanExp : Nat) (w : Window) : Bool :=
  let k := w.sizeExp.toNat
  !w.valid ||
    decide (8 ≤ k ∧ k ≤ 28 ∧ k ≤ spanExp ∧ w.offset.toNat % 2 ^ k = 0 ∧ w.target.toNat % 2 ^ k = 0 ∧
      w.offset.toNat + 2 ^ k ≤ 2 ^ spanExp ∧ Config.managementBytes ≤ w.offset.toNat)

/-- Every configuration value lies in its range (R142, step 1 of R143). -/
def BranchConfig.inRange (c : BranchConfig) : Bool :=
  decide (12 ≤ c.poolExp ∧ c.poolExp ≤ 31 ∧ c.poolBase.toNat % 2 ^ c.poolExp = 0 ∧ 1 ≤ c.limit ∧ c.limit ≤ 16 ∧
    1 ≤ c.replyTimeout ∧ c.replyTimeout ≤ 65535 ∧ 1 ≤ c.orphanHold ∧ c.orphanHold ≤ 65535)

/-- The write covers part of the word's record and not the whole (step 2 of R205). -/
def MgmtRequest.coversPart (r : MgmtRequest) : WordRecord → Bool
  | .window i _ => !r.coversWords (windowOffset i) 4
  | .config b _ => !r.coversWords (configOffset b) 3
  | .unmapped | .readOnly | .interval | .globalCommand | .branchCommand _ => false

/-- What the write carries for the word's record fails its validation (step 3 of R205). -/
def State.badEntry (s : State) (r : MgmtRequest) (x : WordRecord) : Bool :=
  match x with
  | .window i _ => !(r.windowFor i).lawful s.spanExp
  | .config b _ => !(r.configFor b).inRange
  | .interval => decide (255 < (r.wordAt intervalOffset).toNat)
  | .globalCommand => (r.command? .globalCommand).isNone
  | .branchCommand b => (r.command? (.branchCommand b)).isNone
  | .unmapped => false
  | .readOnly => false

/-- The write would change the pool of a branch that has a record in use or an enumeration running (R94, step 2 of
R143). -/
def State.poolRefused (s : State) (b : Branch) (c : BranchConfig) : Bool :=
  let u := s.br b
  (c.poolBase != u.config.poolBase || c.poolExp != u.config.poolExp) &&
    (u.enumerating || u.records.toList.any (· != .vacant))

/-- The present state does not allow what the write carries for the word's record (step 4 of R205). -/
def State.refusedNow (s : State) (r : MgmtRequest) (x : WordRecord) : Bool :=
  match x with
  | .config b _ => s.poolRefused b (r.configFor b)
  | .globalCommand => !((r.command? .globalCommand).all s.commandAccepted)
  | .branchCommand b => !((r.command? (.branchCommand b)).all s.commandAccepted)
  | .window _ _ => false
  | .interval => false
  | .unmapped => false
  | .readOnly => false

/-- The status of the first step of R205 that the write fails, if any. -/
def State.judgeWrite (s : State) (r : MgmtRequest) : Option Status :=
  let xs := r.records
  if xs.contains .readOnly then some .readonly
  else if xs.any r.coversPart then some .partialWrite
  else if 2 ≤ xs.countP WordRecord.isCommand ∨ xs.any (s.badEntry r) then some .badentry
  else if xs.any (s.refusedNow r) then some .refused
  else none

/-! ### Applying a write (R206) -/

/-- Apply one covered record, at its first word (R206). -/
def State.applyRecord (r : MgmtRequest) (s : State) (x : WordRecord) : State :=
  match x with
  | .window i 0 => { s with windows := s.windows.set i.val (r.windowFor i) i.isLt }
  | .config b 0 => s.updBr b fun u => { u with config := r.configFor b }
  | .interval => { s with interval := (r.wordAt intervalOffset).toNat }
  | .globalCommand => ((r.command? .globalCommand).map fun c => s.applyCommand c).getD s
  | .branchCommand b => ((r.command? (.branchCommand b)).map fun c => s.applyCommand c).getD s
  | .window _ (_ + 1) => s
  | .config _ (_ + 1) => s
  | .unmapped => s
  | .readOnly => s

/-- Count an applied write, and the command it carries. The write that carries CLEAR-COUNTERS is counted in neither
(R206, R209). -/
def State.countWrite (command : Option Command) (s : State) : State :=
  match command with
  | none => { s with mgmt := { s.mgmt with writes := s.mgmt.writes + 1 } }
  | some .clearCounters => s
  | some (.enumerate _) | some (.release _ _) | some (.branchReset _) | some (.dormant _) | some (.wake _)
  | some (.noticeAck _ _) =>
    { s with mgmt := { s.mgmt with writes := s.mgmt.writes + 1, commands := s.mgmt.commands + 1 } }

/-- Count a refused write under its status, and as dropped where it is a POST (R205, R213). -/
def MgmtCounters.countRefusal (h : ReqHeader) (st : Status) (c : MgmtCounters) : MgmtCounters :=
  let c := match st with
    | .readonly => { c with readonly := c.readonly + 1 }
    | .partialWrite => { c with partialWrite := c.partialWrite + 1 }
    | .badentry => { c with badentry := c.badentry + 1 }
    | .refused => { c with refused := c.refused + 1 }
    | .ok | .fault | .noroute | .denied | .bounds | .malformed | .absent | .busy | .lost | .timeout | .flushed
    | .badreply => c
  match h with
  | .post => { c with postDropped := c.postDropped + 1 }
  | .tagged _ _ => c

/-- Carry out a WRITE, or a POST as a WRITE: judged whole, then applied record by record in ascending order of offset
(R205, R206). -/
def State.carryOutWrite (r : MgmtRequest) (s : State) : State :=
  match s.judgeWrite r with
  | some st => State.answer r.hdr st { s with mgmt := s.mgmt.countRefusal r.hdr st }
  | none =>
    State.answer r.hdr .ok
      (State.countWrite (r.records.findSome? r.command?) (r.records.foldl (State.applyRecord r) s))

/-! ### Execution (R202) -/

/-- The words a READ returns, all at one happening (R204). Whether the word of the reads counter already counts this READ
is a free value (assumption 4). -/
def State.readWords (s : State) (r : MgmtRequest) : List Word :=
  let shown := { s with mgmt := { s.mgmt with
    reads := if Config.readShowsItself then s.mgmt.reads + 1 else s.mgmt.reads } }
  (List.range r.count).map fun i => shown.readWord (r.offset + 4 * i)

/-- Carry out a READ: counted, and answered OK with its words (R204). -/
def State.carryOutRead (r : MgmtRequest) (t : UTag) (s : State) : State :=
  State.placeReply t .ok 0 (s.readWords r) { s with mgmt := { s.mgmt with reads := s.mgmt.reads + 1 } }

/-- Carry out a SWAP: answered DENIED, nothing read or written (R207). -/
def State.carryOutSwap (t : UTag) (s : State) : State :=
  State.placeReply t .denied 0 [] { s with mgmt := { s.mgmt with denied := s.mgmt.denied + 1 } }

/-- Carry out a management request by its kind (R202). -/
def State.carryOut (r : MgmtRequest) (s : State) : State :=
  match r.hdr with
  | .tagged .read t => s.carryOutRead r t
  | .tagged .swap t => s.carryOutSwap t
  | .tagged .write _ => s.carryOutWrite r
  | .post => s.carryOutWrite r

/-- The unit executes the head of its input queue, where that execution is of the row: the request leaves the queue, the
place it frees retests a held request, and the request is carried out (R202). -/
def State.executeHead (row : MgmtRow) (s : State) : State :=
  match s.mgmtQueue with
  | [] => s
  | r :: rest => if r.row = row then State.carryOut r (State.retestHeld { s with mgmtQueue := rest }) else s

/-- MANAGEMENT_READ (R204). -/
def execManagementRead (s : State) : Host.Outcome State Fault Refusal :=
  .next (s.executeHead .read)

/-- MANAGEMENT_WRITE (R205). -/
def execManagementWrite (s : State) : Host.Outcome State Fault Refusal :=
  .next (s.executeHead .write)

/-- WINDOW_ENTRY_WRITE (R8). -/
def execWindowEntryWrite (s : State) : Host.Outcome State Fault Refusal :=
  .next (s.executeHead .windowEntry)

/-- CONFIGURATION_WRITE (R143). -/
def execConfigurationWrite (s : State) : Host.Outcome State Fault Refusal :=
  .next (s.executeHead .configuration)

/-- RE_PRESENT_INTERVAL_WRITE (R155). -/
def execRePresentIntervalWrite (s : State) : Host.Outcome State Fault Refusal :=
  .next (s.executeHead .interval)

/-- MANAGEMENT_SWAP (R207). -/
def execManagementSwap (s : State) : Host.Outcome State Fault Refusal :=
  .next (s.executeHead .swap)

/-- ENUMERATE (R98). -/
def execEnumerate (s : State) : Host.Outcome State Fault Refusal :=
  .next (s.executeHead .enumerate)

/-- RELEASE (R110). -/
def execRelease (s : State) : Host.Outcome State Fault Refusal :=
  .next (s.executeHead .release)

/-- BRANCH_RESET (R140). -/
def execBranchReset (s : State) : Host.Outcome State Fault Refusal :=
  .next (s.executeHead .branchReset)

/-- DORMANT (R128). -/
def execDormant (s : State) : Host.Outcome State Fault Refusal :=
  .next (s.executeHead .dormant)

/-- WAKE (R132). -/
def execWake (s : State) : Host.Outcome State Fault Refusal :=
  .next (s.executeHead .wake)

/-- NOTICE_ACK (R158). -/
def execNoticeAck (s : State) : Host.Outcome State Fault Refusal :=
  .next (s.executeHead .noticeAck)

/-- CLEAR_COUNTERS (R209). -/
def execClearCounters (s : State) : Host.Outcome State Fault Refusal :=
  .next (s.executeHead .clearCounters)

end Sys2Proof.Machine
end

