-- ==== Sys2Proof/Machine/Dispatch.lean ====
section
/-!
DEFINITION. exec: one arm for each constructor of Instr, in the order of spec/opcode_table.json.
-/

namespace Sys2Proof.Machine

open Sys2Proof

/-- The effect of a command on everything but the queue of waiting commands (95_what_each_step_holds.md). -/
def exec (i : Instr) (s : State) : Host.Outcome State Fault Refusal :=
  match i with
  | .powerOnReset span1 span0 => Sys2Proof.Machine.execPowerOnReset span1 span0 s
  | .resetAsserted => Sys2Proof.Machine.execResetAsserted s
  | .requestFrame hdr addr count data => Sys2Proof.Machine.execRequestFrame hdr addr count data s
  | .uCreditSent => Sys2Proof.Machine.execUCreditSent s
  | .classifierTake => Sys2Proof.Machine.execClassifierTake s
  | .uIdentify => Sys2Proof.Machine.execUIdentify s
  | .uAssign base => Sys2Proof.Machine.execUAssign base s
  | .uRelease base => Sys2Proof.Machine.execURelease base s
  | .uClear => Sys2Proof.Machine.execUClear s
  | .uHush => Sys2Proof.Machine.execUHush s
  | .uUnexpectedFrame kind => Sys2Proof.Machine.execUUnexpectedFrame kind s
  | .uCreditReceived increment => Sys2Proof.Machine.execUCreditReceived increment s
  | .egressFrameSent => Sys2Proof.Machine.execEgressFrameSent s
  | .badFrame p => Sys2Proof.Machine.execBadFrame p s
  | .farEndTrains p => Sys2Proof.Machine.execFarEndTrains p s
  | .lossOfSignal p => Sys2Proof.Machine.execLossOfSignal p s
  | .unknownFrameDiscarded p => Sys2Proof.Machine.execUnknownFrameDiscarded p s
  | .branchAwayFrame b kind => Sys2Proof.Machine.execBranchAwayFrame b kind s
  | .trainingAttemptTimeout p => Sys2Proof.Machine.execTrainingAttemptTimeout p s
  | .linkEntersUp p => Sys2Proof.Machine.execLinkEntersUp p s
  | .wakeTaken p => Sys2Proof.Machine.execWakeTaken p s
  | .quietRelistenTimeout b stillSignalling => Sys2Proof.Machine.execQuietRelistenTimeout b stillSignalling s
  | .credit b increment => Sys2Proof.Machine.execCredit b increment s
  | .issue b => Sys2Proof.Machine.execIssue b s
  | .ageDeadlineExpiry b => Sys2Proof.Machine.execAgeDeadlineExpiry b s
  | .reply b tag status detail data => Sys2Proof.Machine.execReply b tag status detail data s
  | .replyDeadlineExpiry e => Sys2Proof.Machine.execReplyDeadlineExpiry e s
  | .orphanDeadlineExpiry e => Sys2Proof.Machine.execOrphanDeadlineExpiry e s
  | .descriptor b cls identity sizeExp flags hop => Sys2Proof.Machine.execDescriptor b cls identity sizeExp flags hop s
  | .assigned b hop => Sys2Proof.Machine.execAssigned b hop s
  | .empty b hop => Sys2Proof.Machine.execEmpty b hop s
  | .identifyTimerExpiry b => Sys2Proof.Machine.execIdentifyTimerExpiry b s
  | .chainbreak b hop => Sys2Proof.Machine.execChainbreak b hop s
  | .chainmend b hop => Sys2Proof.Machine.execChainmend b hop s
  | .attention b code hop => Sys2Proof.Machine.execAttention b code hop s
  | .branchClearSent b => Sys2Proof.Machine.execBranchClearSent b s
  | .hushSent b => Sys2Proof.Machine.execHushSent b s
  | .drainComplete b => Sys2Proof.Machine.execDrainComplete b s
  | .wakeTimerExpiry b => Sys2Proof.Machine.execWakeTimerExpiry b s
  | .rePresentTimerExpiry => Sys2Proof.Machine.execRePresentTimerExpiry s
  | .managementRead => Sys2Proof.Machine.execManagementRead s
  | .managementWrite => Sys2Proof.Machine.execManagementWrite s
  | .windowEntryWrite => Sys2Proof.Machine.execWindowEntryWrite s
  | .configurationWrite => Sys2Proof.Machine.execConfigurationWrite s
  | .rePresentIntervalWrite => Sys2Proof.Machine.execRePresentIntervalWrite s
  | .managementSwap => Sys2Proof.Machine.execManagementSwap s
  | .enumerate => Sys2Proof.Machine.execEnumerate s
  | .release => Sys2Proof.Machine.execRelease s
  | .branchReset => Sys2Proof.Machine.execBranchReset s
  | .dormant => Sys2Proof.Machine.execDormant s
  | .wake => Sys2Proof.Machine.execWake s
  | .noticeAck => Sys2Proof.Machine.execNoticeAck s
  | .clearCounters => Sys2Proof.Machine.execClearCounters s
  | .branchFrameSent b => Sys2Proof.Machine.execBranchFrameSent b s
  | .uMemberFrameSent => Sys2Proof.Machine.execUMemberFrameSent s

end Sys2Proof.Machine
end

