-- ==== Sys2Proof/Machine/Idle.lean ====
section
/-!
DEFINITION. What happens while no command waits: time passes, and a timer whose time has come runs out (assumption 1).
-/

namespace Sys2Proof.Machine

open Sys2Proof

/-- The timers of an entry, each with the command of its running out (R70, R71). -/
def PendingEntry.timers (e : EntryIx) : PendingEntry → List (Time × Instr)
  | .waiting _ _ d => [(d, .replyDeadlineExpiry e)]
  | .orphaned _ d _ => [(d, .orphanDeadlineExpiry e)]
  | .free => []

/-- The timers of a port (R183, R196). The far end of a port that listens again is taken to be silent: one that still signals
is a command from outside. -/
def LinkPort.timers (p : Port) (q : LinkPort) : List (Time × Instr) :=
  match p, q.link, q.attemptTimer, q.relistenTimer with
  | _, .training, some d, _ => [(d, .trainingAttemptTimeout p)]
  | .branch b, .quiet, _, some d => [(d, .quietRelistenTimeout b false)]
  | _, _, _, _ => []

/-- The timers of a branch (R53, R97, R122, R182). -/
def BranchUnit.timers (b : Branch) (u : BranchUnit) : List (Time × Instr) :=
  ((earliestDeadline u.queue).toList.map fun d => (d, .ageDeadlineExpiry b))
    ++ (match u.enumeration with | .running _ d => [(d, .identifyTimerExpiry b)] | .idle => [])
    ++ (match u.state with
      | .waking d => [(d, .wakeTimerExpiry b)]
      | .down | .active | .draining | .dormant | .failed => [])
    ++ u.port.timers (.branch b)

/-- Every timer that runs, with the command of its running out. -/
def State.timers (s : State) : List (Time × Instr) :=
  (List.finRange 4).flatMap (fun b => (s.br b).timers b)
    ++ (List.finRange 32).flatMap (fun e => (s.entry e).timers e)
    ++ s.u.port.timers .u ++ s.rePresentTimer.toList.map fun d => (d, .rePresentTimerExpiry)

/-- The timer that runs out first; of those that run out together, the first in the list (assumption 1). -/
def earliestTimer : List (Time × Instr) → Option (Time × Instr)
  | [] => none
  | x :: rest =>
    match earliestTimer rest with
    | none => some x
    | some y => if y.1 < x.1 then some y else some x

/-- The command of the timer whose time has come, if there is one. -/
def State.dueCommand (s : State) : Option Instr :=
  match earliestTimer s.timers with
  | none => none
  | some x => if x.1 ≤ s.now then some x.2 else none

/-- A step with no command waiting: a timer whose time has come runs out, and else the clock moves on by one microsecond. -/
def State.idle (s : State) : Host.Outcome State Fault Refusal :=
  match s.dueCommand with
  | some c => exec c s
  | none => .next { s with now := s.now + 1 }

end Sys2Proof.Machine
end

