-- ==== Sys2Proof/Machine/Wire.lean ====
section
/-!
DEFINITION. Frames as bytes: their layout (R214, R215), the check (R186), how a port judges what it receives (R187, R188),
and the command that a received frame is (R189, R190).
-/

namespace Sys2Proof.Machine

open Sys2Proof

/-! ### The frames of the link (R197) -/

/-- A frame with its named fields, by its kind (R197). -/
inductive WireFrame where
  | request (hdr : ReqHeader) (addr : Word) (count : Byte) (data : List Word)
  | reply (tag : UTag) (status detail : Byte) (data : List Word)
  | identify
  | descriptor (cls : BitVec 16) (identity : Word) (sizeExp : Byte) (flags : MemberFlags) (hop : Byte)
  | empty (hop : Byte)
  | assign (base : Word)
  | assigned (hop : Byte)
  | release (base : Word)
  | clear
  | hush
  | attention (code hop : Byte)
  | chainbreak (hop : Byte)
  | chainmend (hop : Byte)
  | credit (increment : Byte)
  deriving DecidableEq, Repr

/-- The data words of a frame; none in a kind that carries none (R188). -/
def WireFrame.data : WireFrame → List Word
  | .request _ _ _ data => data
  | .reply _ _ _ data => data
  | .identify | .descriptor _ _ _ _ _ | .empty _ | .assign _ | .assigned _ | .release _ | .clear | .hush
  | .attention _ _ | .chainbreak _ | .chainmend _ | .credit _ => []

/-! ### The layout (R214, R215) -/

/-- The kind code of a frame (R214). -/
def WireFrame.code : WireFrame → Byte
  | .request (.tagged .read _) _ _ _ => 0x01
  | .request (.tagged .write _) _ _ _ => 0x02
  | .request (.tagged .swap _) _ _ _ => 0x03
  | .request .post _ _ _ => 0x04
  | .reply _ _ _ _ => 0x05
  | .identify => 0x10
  | .descriptor _ _ _ _ _ => 0x11
  | .empty _ => 0x12
  | .assign _ => 0x13
  | .assigned _ => 0x14
  | .release _ => 0x15
  | .clear => 0x16
  | .hush => 0x17
  | .attention _ _ => 0x18
  | .chainbreak _ => 0x19
  | .chainmend _ => 0x1A
  | .credit _ => 0x20

/-- The tag field of the header: zero in a kind that carries no tag, and in a POST (R214, R215). -/
def WireFrame.tag : WireFrame → UTag
  | .request (.tagged _ t) _ _ _ => t
  | .reply t _ _ _ => t
  | .request .post _ _ _ => 0
  | .identify | .descriptor _ _ _ _ _ | .empty _ | .assign _ | .assigned _ | .release _ | .clear | .hush
  | .attention _ _ | .chainbreak _ | .chainmend _ | .credit _ => 0

/-- A word as four bytes, the least significant first (0.8, R214). -/
def wordBytes (w : Word) : List Byte :=
  [w.extractLsb' 0 8, w.extractLsb' 8 8, w.extractLsb' 16 8, w.extractLsb' 24 8]

/-- A field of two bytes, the least significant first (R186, R214). -/
def halfBytes (h : BitVec 16) : List Byte :=
  [h.extractLsb' 0 8, h.extractLsb' 8 8]

/-- The flags byte of a DESCRIPTOR: bits 0 to 2 (R214). DESIGN CHOICE: bits 7:3, of which R214 says nothing, are sent as zero
(assumption 23). -/
def flagsByte (f : MemberFlags) : Byte :=
  BitVec.ofNat 8 (flagBit f.attentionCapable + 2 * flagBit f.sleepCapable + 4 * flagBit f.concentrator)

/-- The fixed fields after the header, in the order of R197 (R214, R215). -/
def WireFrame.fixed : WireFrame → List Byte
  | .request _ addr count _ => wordBytes addr ++ [count]
  | .reply _ status detail _ => [status, detail]
  | .identify | .clear | .hush => []
  | .descriptor cls identity sizeExp flags hop =>
    halfBytes cls ++ wordBytes identity ++ [sizeExp, flagsByte flags, hop]
  | .empty hop | .assigned hop | .chainbreak hop | .chainmend hop => [hop]
  | .assign base | .release base => wordBytes base
  | .attention code hop => [code, hop]
  | .credit increment => [increment]

/-- The bytes of a frame from the header to the last data word (R214). -/
def WireFrame.body (f : WireFrame) : List Byte :=
  [f.code, f.tag.setWidth 8] ++ f.fixed ++ f.data.flatMap wordBytes

/-! ### The check (R186) -/

/-- One bit of the CRC: the register moves down by one, and the polynomial x^16 + x^12 + x^5 + 1 is taken off where a bit leaves.
Bit 15 of the register is the coefficient of x^0, since the bits come least significant first (assumption 22). -/
def crcShift (c : BitVec 16) : BitVec 16 :=
  if c.getLsbD 0 then (c >>> 1) ^^^ 0x8408 else c >>> 1

/-- One byte of the CRC, least significant bit first. -/
def crcByte (c : BitVec 16) (b : Byte) : BitVec 16 :=
  crcShift (crcShift (crcShift (crcShift (crcShift (crcShift (crcShift (crcShift (c ^^^ b.setWidth 16))))))))

/-- The check over bytes in the order they are sent, from all ones and with no inversion of the result (R186). -/
def crc (bytes : List Byte) : BitVec 16 :=
  bytes.foldl crcByte 0xFFFF

/-- The bytes of a frame between its delimiters: the check follows the body, least significant byte first (R186, R214). -/
def WireFrame.bytes (f : WireFrame) : List Byte :=
  f.body ++ halfBytes (crc f.body)

/-! ### What a port makes of received bytes (R187, R188) -/

/-- What stood between two delimiters on the receive line, and whether the end delimiter came; a training symbol, idle fill or
loss of signal may have cut the frame off (R187). -/
structure Received where
  bytes : List Byte
  ended : Bool
  deriving DecidableEq, Repr

/-- The body of what was received: all but the check (R186). -/
def Received.body (r : Received) : List Byte :=
  r.bytes.take (r.bytes.length - 2)

/-- What was received is bad (R187): the end delimiter did not come, it is shorter than a header and a check or longer than
the longest frame, or the check does not match. -/
def Received.bad (r : Received) : Bool :=
  !r.ended || decide (r.bytes.length < 4) || decide (Config.maxFrameBytes < r.bytes.length)
    || halfBytes (crc r.body) != r.bytes.drop (r.bytes.length - 2)

/-- Bytes, the least significant first, as a number. -/
def littleEndian : List Byte → Nat
  | [] => 0
  | b :: rest => b.toNat + 256 * littleEndian rest

/-- Bytes as whole words; none where they are not a whole number of words (R188). -/
def wordsOf : List Byte → Option (List Word)
  | [] => some []
  | b0 :: b1 :: b2 :: b3 :: rest => (wordsOf rest).map (BitVec.ofNat 32 (littleEndian [b0, b1, b2, b3]) :: ·)
  | _ => none

/-- The request of a kind, from the bytes after the header: its fixed fields and a whole number of words (R188, R215). -/
def requestOf (h : ReqHeader) (fields : List Byte) : Option WireFrame :=
  match fields with
  | a0 :: a1 :: a2 :: a3 :: count :: rest =>
    (wordsOf rest).map (.request h (BitVec.ofNat 32 (littleEndian [a0, a1, a2, a3])) count)
  | _ => none

/-- The REPLY, from the bytes after the header (R188, R215). -/
def replyOf (t : UTag) (fields : List Byte) : Option WireFrame :=
  match fields with
  | status :: detail :: rest => (wordsOf rest).map (.reply t status detail)
  | _ => none

/-- The frame of a kind with nothing after the header (R188). -/
def bareOf (f : WireFrame) (fields : List Byte) : Option WireFrame :=
  if fields = [] then some f else none

/-- The frame of a kind with one byte after the header (R188). -/
def byteOf (f : Byte → WireFrame) (fields : List Byte) : Option WireFrame :=
  match fields with
  | [b] => some (f b)
  | _ => none

/-- The frame of a kind with a base after the header (R188). -/
def baseOf (f : Word → WireFrame) (fields : List Byte) : Option WireFrame :=
  match fields with
  | [b0, b1, b2, b3] => some (f (BitVec.ofNat 32 (littleEndian [b0, b1, b2, b3])))
  | _ => none

/-- The ATTENTION, from the bytes after the header (R188, R214). -/
def attentionOf (fields : List Byte) : Option WireFrame :=
  match fields with
  | [code, hop] => some (.attention code hop)
  | _ => none

/-- The DESCRIPTOR, from the bytes after the header (R188, R214). DESIGN CHOICE: bits 7:3 of its flags byte are not examined
(assumption 23). -/
def descriptorOf (fields : List Byte) : Option WireFrame :=
  match fields with
  | [c0, c1, i0, i1, i2, i3, sizeExp, flags, hop] =>
    some (.descriptor (BitVec.ofNat 16 (littleEndian [c0, c1])) (BitVec.ofNat 32 (littleEndian [i0, i1, i2, i3])) sizeExp
      ⟨flags.getLsbD 0, flags.getLsbD 1, flags.getLsbD 2⟩ hop)
  | _ => none

/-- The frame that a body is, by its kind code; none where the code names no kind or the length does not fit the kind
(R188, R214). -/
def frameOf (body : List Byte) : Option WireFrame :=
  match body with
  | code :: second :: fields =>
    let t : UTag := second.setWidth 6
    match code.toNat with
    | 0x01 => requestOf (.tagged .read t) fields
    | 0x02 => requestOf (.tagged .write t) fields
    | 0x03 => requestOf (.tagged .swap t) fields
    | 0x04 => requestOf .post fields
    | 0x05 => replyOf t fields
    | 0x10 => bareOf .identify fields
    | 0x11 => descriptorOf fields
    | 0x12 => byteOf .empty fields
    | 0x13 => baseOf .assign fields
    | 0x14 => byteOf .assigned fields
    | 0x15 => baseOf .release fields
    | 0x16 => bareOf .clear fields
    | 0x17 => bareOf .hush fields
    | 0x18 => attentionOf fields
    | 0x19 => byteOf .chainbreak fields
    | 0x1A => byteOf .chainmend fields
    | 0x20 => byteOf .credit fields
    | _ => none
  | _ => none

/-! ### Where a received frame goes (R189, R190) -/

/-- The kind of a request that travels away from a master (R190). -/
def awayKind : ReqHeader → AwayKind
  | .tagged .read _ => .read
  | .tagged .write _ => .write
  | .tagged .swap _ => .swap
  | .post => .post

/-- The command that a good frame arriving on U is (R189). -/
def WireFrame.onU : WireFrame → Instr
  | .request hdr addr count data => .requestFrame hdr addr count data
  | .identify => .uIdentify
  | .assign base => .uAssign base
  | .release base => .uRelease base
  | .clear => .uClear
  | .hush => .uHush
  | .credit increment => .uCreditReceived increment
  | .reply _ _ _ _ => .uUnexpectedFrame .reply
  | .descriptor _ _ _ _ _ => .uUnexpectedFrame .descriptor
  | .empty _ => .uUnexpectedFrame .empty
  | .assigned _ => .uUnexpectedFrame .assigned
  | .attention _ _ => .uUnexpectedFrame .attention
  | .chainbreak _ => .uUnexpectedFrame .chainbreak
  | .chainmend _ => .uUnexpectedFrame .chainmend

/-- The command that a good frame arriving on branch b is (R190). -/
def WireFrame.onBranch (b : Branch) : WireFrame → Instr
  | .reply tag status detail data => .reply b tag status detail data
  | .attention code hop => .attention b code hop
  | .descriptor cls identity sizeExp flags hop => .descriptor b cls identity sizeExp flags hop
  | .empty hop => .empty b hop
  | .assigned hop => .assigned b hop
  | .chainbreak hop => .chainbreak b hop
  | .chainmend hop => .chainmend b hop
  | .credit increment => .credit b increment
  | .request hdr _ _ _ => .branchAwayFrame b (awayKind hdr)
  | .identify => .branchAwayFrame b .identify
  | .assign _ => .branchAwayFrame b .assign
  | .release _ => .branchAwayFrame b .release
  | .clear => .branchAwayFrame b .clear
  | .hush => .branchAwayFrame b .hush

/-- The command that a good frame arriving at a port is (R189, R190). -/
def WireFrame.command (p : Port) (f : WireFrame) : Instr :=
  match p with
  | .u => f.onU
  | .branch b => f.onBranch b

/-- The command that what a port received is (R187 to R190). -/
def Received.command (p : Port) (r : Received) : Instr :=
  if r.bad then .badFrame p
  else
    match frameOf r.body with
    | none => .unknownFrameDiscarded p
    | some f => f.command p

/-! ### What a port sends (R191) -/

/-- The frame on the link that a frame handed to a branch port is; on a branch the tag of a request is its branch tag
(R197, R215). -/
def BranchFrame.wire : BranchFrame → WireFrame
  | .tagged k t addr count data => .request (.tagged k (t.setWidth 6)) addr (BitVec.ofNat 8 count) data
  | .post addr count data => .request .post addr (BitVec.ofNat 8 count) data
  | .identify => .identify
  | .assign base => .assign base
  | .release base => .release base
  | .clear => .clear
  | .resetClear => .clear
  | .hush => .hush

/-- The frame on the link that a member frame of the part is (R166, R168). -/
def MemberFrame.wire : MemberFrame → WireFrame
  | .descriptor d => .descriptor d.cls d.identity (BitVec.ofNat 8 d.sizeExp) d.flags d.hop
  | .empty hop => .empty hop
  | .assigned hop => .assigned hop

/-- The frame on the link that an egress frame is (R154, R176). -/
def EgressFrame.wire : EgressFrame → WireFrame
  | .reply r => .reply r.tag (BitVec.ofNat 8 r.status.code) r.detail r.data
  | .attention code => .attention code 0

/-- The frame that U is sending, which goes to its end (R20, R167, R177, R191, R194). -/
def State.nextOnU (s : State) : Option WireFrame :=
  match s.onLineU with
  | some (.credit n) => some (.credit (BitVec.ofNat 8 n))
  | some .member => s.u.unsent.head?.map fun h => h.frame.wire
  | some .egress => s.egress.head?.map EgressFrame.wire
  | none => none

/-- The frame that a port is sending; none while its link is not UP, but for the one that a HUSH found being sent on U (R191,
R194). -/
def State.nextFrame (s : State) (p : Port) : Option WireFrame :=
  match p with
  | .u => s.nextOnU
  | .branch b => if (s.br b).port.link = .up then (s.br b).unsent.head?.map BranchFrame.wire else none

end Sys2Proof.Machine
end

