-- ==== Sys2Proof/Safety.lean ====
section
/-!
DEFINITION. What a safe state of the part is: the laws that the spec names as laws, and the standing relations between the
state of a branch and the state of its link. The statements for the provers are made in these terms.
-/

namespace Sys2Proof.Machine

open Sys2Proof

/-! ### Tags and reservations (R23, R24, R27, R63) -/

/-- The upstream tag that a request carries, if any. -/
def hdrTags : ReqHeader → List UTag
  | .tagged _ t => [t]
  | .post => []

/-- The upstream tag that a pending entry carries: only a WAITING one does (R61). -/
def PendingEntry.tags : PendingEntry → List UTag
  | .waiting _ t _ => [t]
  | .free => []
  | .orphaned _ _ _ => []

/-- The tag of the held request, if it is tagged (R32). -/
def State.heldTags (s : State) : List UTag :=
  match s.held, s.ingress with
  | true, r :: _ => hdrTags r.hdr
  | true, [] => []
  | false, _ => []

/-- The tags of the accepted requests that have not been answered: the held request's, those in the management unit's input
queue, those in the forward queues and those of the WAITING entries. -/
def State.outstanding (s : State) : List UTag :=
  s.heldTags ++ s.mgmtQueue.flatMap (fun r => hdrTags r.hdr)
    ++ s.branches.toList.flatMap (fun u => u.queue.flatMap fun q => hdrTags q.hdr)
    ++ s.entries.toList.flatMap PendingEntry.tags

/-- The laws of the tag register and of the egress reservation (R23, R24): the tags of the unanswered accepted requests are
distinct, they are exactly the tags in the tag register, each has one reservation, and reservations and reply frames
together never exceed the reply slots. -/
abbrev State.TagLaw (s : State) : Prop :=
  s.outstanding.Nodup ∧ s.outstanding.Perm s.tagReg ∧ s.reservations = s.tagReg.length ∧
    s.reservations + s.replyFrames ≤ Config.replySlots ∧ (s.held = true → s.ingress ≠ [])

/-! ### Credit and the frame being sent on U (R20, R191) -/

/-- What the frame begun on U is, is there: an increment above 0 and at most owed, a member frame, an egress frame. A U that is
OFF sends nothing (R20, R182, R191, R194). -/
def State.sendsWhatIsThere (s : State) : Bool :=
  match s.u.sending with
  | none => true
  | some (.credit n) => s.u.port.link != .off && decide (0 < n) && decide (n ≤ s.u.owed)
  | some .member => s.u.port.link != .off && s.u.unsent != []
  | some .egress => s.u.port.link != .off && s.egress != []

/-- The ingress buffer holds at most 16 frames, while U is UP the frames in it, the granted credits and the owed credits
make 16, and a frame begun on U is there (R19, R20, R191, R194). -/
abbrev State.CreditLaw (s : State) : Prop :=
  s.ingress.length ≤ Config.ingressPlaces ∧
    (s.u.port.link = .up → s.ingress.length + s.u.granted + s.u.owed = Config.ingressPlaces) ∧
    s.sendsWhatIsThere = true

/-! ### Ports and branches -/

/-- The timers of a port run only where the spec starts them, and its count of bad frames in a row is below the one at which
it leaves UP (R183, R187, R196). -/
abbrev LinkPort.Lawful (p : LinkPort) : Prop :=
  (p.attemptTimer.isSome = true ↔ p.link = .training) ∧ (p.relistenTimer.isSome = true → p.link = .quiet) ∧
    p.badRun < Config.badRunLimit

/-- The port of a branch that goes to sleep, or is to wake, is still UP and the last frame handed to it is HUSH (R184,
R194, R195). -/
def BranchUnit.hushing (u : BranchUnit) : Bool :=
  u.port.link == .up && u.unsent.getLast? == some .hush

/-- The link beneath a branch is in the state that the branch's state asks for (R124); while RESET is asserted it is OFF
(R175). -/
def BranchUnit.linkInStep (pin : Bool) (u : BranchUnit) : Bool :=
  if pin then u.port.link == .off
  else
    match u.state with
    | .down => u.port.link == .training
    | .active => u.port.link == .up
    | .draining => u.port.link == .up
    | .dormant => u.port.link == .quiet || u.hushing
    | .waking _ => u.port.link == .training || u.hushing
    | .failed => u.port.link == .off

/-- The branch is DORMANT or WAKING: the states in which a HUSH may wait in its port (R130, R195). -/
def BranchUnit.sleepy (u : BranchUnit) : Bool :=
  match u.state with
  | .dormant => true
  | .waking _ => true
  | .down => false
  | .active => false
  | .draining => false
  | .failed => false

/-- The record is IDENTIFIED. -/
def Record.isIdentified : Record → Bool
  | .identified _ _ => true
  | .vacant => false
  | .unplaced _ => false
  | .assigned _ _ => false
  | .lost _ _ => false

/-- What holds of one branch between happenings:
* the link is in step with the branch, and a port that is not UP holds no credit and nothing unsent (R124, R191, R192);
* a HUSH waits only in the port of a DORMANT or WAKING branch, as its last frame (R130, R195);
* a CLEAR waits only on an ACTIVE branch that owes it, at most one of them is the first frame of the link, and an ACTIVE
  branch that owes one has it waiting (R127, R128, R141);
* a DOWN branch owes a CLEAR, a DRAINING or DORMANT one does not (R125, R130, R131);
* an enumeration runs only on an ACTIVE branch, and the IDENTIFIED record is the one at the working position (R97, R128);
* the configuration values and the transmit credit are in their ranges (R142, R192). -/
abbrev BranchUnit.Lawful (pin : Bool) (u : BranchUnit) : Prop :=
  u.port.Lawful ∧ u.linkInStep pin = true ∧ (u.port.link ≠ .up → u.credit = 0 ∧ u.unsent = []) ∧
    (.hush ∈ u.unsent → u.sleepy = true) ∧ .hush ∉ u.unsent.dropLast ∧
    u.unsent.count .clear ≤ 1 ∧ (u.clearWaits = true → u.state = .active ∧ u.clearOwed = true) ∧
    (pin = false → u.state = .active → u.clearOwed = true → u.clearWaits = true) ∧
    (u.state = .down → u.clearOwed = true) ∧ (u.state = .draining → u.clearOwed = false) ∧
    (u.state = .dormant → u.clearOwed = false) ∧ (u.enumerating = true → u.state = .active) ∧
    (∀ p : Position, (u.records[p]).isIdentified = true ↔ u.workingPosition = some p) ∧
    u.config.inRange = true ∧ u.credit ≤ Config.creditMax

/-- Every branch is lawful. -/
abbrev State.BranchesLawful (s : State) : Prop :=
  ∀ b : Branch, (s.br b).Lawful s.resetPin

/-- A branch that carries no traffic holds none: a DOWN, DORMANT or FAILED branch has an empty forward queue, and these and
a WAKING branch have no pending entry; no forward queue holds more than 8 slots (R43, R131, R139). -/
abbrev State.DormancyLaw (s : State) : Prop :=
  ∀ b : Branch,
    ((s.br b).state = .down ∨ (s.br b).state = .failed ∨ (s.br b).state = .dormant →
      (s.br b).queue = [] ∧ s.entryCount b = 0) ∧
    ((s.br b).sleepy = true → s.entryCount b = 0) ∧ (s.br b).queue.length ≤ Config.forwardSlots

/-! ### Branch tags (R62) -/

/-- The branch tag that an entry of branch b holds. -/
def PendingEntry.tagOn (b : Branch) : PendingEntry → Option BTag
  | .free => none
  | .waiting c _ _ => if c.branch = b then some c.tag else none
  | .orphaned c _ _ => if c.branch = b then some c.tag else none

/-- The branch tags held on branch b, in entry order. -/
def State.heldBranchTags (s : State) (b : Branch) : List BTag :=
  s.entries.toList.filterMap (PendingEntry.tagOn b)

/-- The law of branch tags: on each branch, each branch tag is held by at most one pending entry (R62). -/
abbrev State.BranchTagLaw (s : State) : Prop :=
  ∀ b : Branch, (s.heldBranchTags b).Nodup

/-! ### Attachment ranges (R93) -/

/-- A range with its base and size exponent lies in the branch's pool and is aligned to its size. -/
def BranchUnit.inPool (u : BranchUnit) (h : Nat × Nat) : Bool :=
  decide (h.1 % 2 ^ h.2 = 0 ∧ u.config.poolBase.toNat ≤ h.1 ∧
    h.1 + 2 ^ h.2 ≤ u.config.poolBase.toNat + 2 ^ u.config.poolExp)

/-- The law of attachment ranges for one branch: the ranges held are aligned to their sizes, lie in the pool and never
overlap (R93). -/
abbrev BranchUnit.RangeLaw (u : BranchUnit) : Prop :=
  (∀ p : Position, (u.records[p]).range?.all u.inPool = true) ∧
    ∀ p q : Position, p ≠ q →
      (u.records[p]).range?.all (fun h => (u.records[q]).range?.all fun g => !overlaps h.1 h.2 g) = true

/-- The law of attachment ranges, with every pool a pool that R94 admits. -/
abbrev State.RangeLaw (s : State) : Prop :=
  ∀ b : Branch, (s.br b).RangeLaw ∧ (s.br b).config.inRange = true

/-! ### The window table (R6, R17) -/

/-- The law of the window table: every valid entry is aligned, lies within the span and lies outside the management block
(R6). -/
abbrev State.WindowLaw (s : State) : Prop :=
  ∀ i : WindowIx, (s.windows[i]).lawful s.spanExp = true

/-! ### Notices (R148, R149, R160) -/

/-- What a notice may be: a self notice has a cause, an attachment notice has an ASSIGNED record, and the counts stand
within their bounds (R148, R150, R160). -/
def State.noticeOk (s : State) (n : Notice) : Bool :=
  decide (n.merges ≤ 15 ∧ n.presentations ≤ 255) &&
    match n.body with
    | .self causes => causes != 0
    | .attachment b p _ => (s.record b p).isAssigned

/-- The law of the notice queue, with what R148, R155, R157 and R176 say of a notice, of the timer, of the owed mark and of
the notice slot. -/
abbrev State.NoticeLaw (s : State) : Prop :=
  (s.notices.map Notice.source).Nodup ∧ (∀ n ∈ s.notices, s.noticeOk n = true) ∧
    (s.notices = [] → s.rePresentTimer = none ∧ s.presentationOwed = false) ∧
    s.egress.countP (fun f => !f.isReply) ≤ 1

/-! ### The upstream side (R165, R179, R182, R200) -/

/-- The span size is one of the four that the straps give, the base is aligned to it, the U port is lawful and is OFF exactly
while RESET is asserted, and a QUIET U link has no frame waiting (R165, R175, R179, R200). -/
abbrev State.UpstreamLaw (s : State) : Prop :=
  (s.spanExp = 16 ∨ s.spanExp = 20 ∨ s.spanExp = 24 ∨ s.spanExp = 28) ∧
    (s.member.all fun base => decide (base.toNat % 2 ^ s.spanExp = 0)) = true ∧ s.u.port.Lawful ∧
    (s.u.port.link = .off ↔ s.resetPin = true) ∧ (s.u.port.link = .quiet → s.egress = [])

/-! ### Requests in the part's queues (R3, R29, R43, R61, R201) -/

/-- A count and data words that fit the kind of a request (R29). -/
def fitsKind (h : ReqHeader) (count : Nat) (data : List Word) : Bool :=
  decide (1 ≤ count ∧ count ≤ 16 ∧ data.length = requiredWords h count) && (!isSwap h || count == 1)

/-- A management request lies wholly in the management block, aligned (R3, R204). -/
def MgmtRequest.inBlock (r : MgmtRequest) : Bool :=
  decide (r.offset % 4 = 0 ∧ r.offset + 4 * r.count ≤ Config.managementBytes)

/-- The management unit's input queue holds at most 2 requests, each whole in the block and fit for its kind; the held
request is well formed; every slot of a forward queue is fit for its kind (R32, R43, R201, R204). -/
abbrev State.RequestLaw (s : State) : Prop :=
  s.mgmtQueue.length ≤ Config.managementPlaces ∧
    (∀ r ∈ s.mgmtQueue, r.inBlock = true ∧ fitsKind r.hdr r.count r.data = true) ∧
    (s.held = true → (s.ingress.head?.any fun r => !r.malformed) = true) ∧
    ∀ b : Branch, ∀ q ∈ (s.br b).queue, fitsKind q.hdr q.count q.data = true

/-! ### Deadlines (R53, R70, R216) -/

/-- No age deadline and no reply deadline has been passed: a queued slot is issued or removed, and a WAITING entry answered, no
later than its deadline (R53, R70, R216). -/
abbrev State.RequestsOnTime (s : State) : Prop :=
  (∀ b : Branch, ∀ q ∈ (s.br b).queue, s.now ≤ q.ageDeadline) ∧
    ∀ (e : EntryIx) (c : Carried) (t : UTag) (d : Time), s.entry e = .waiting c t d → s.now ≤ d

/-! ### Terms of the statements -/

/-- The request is one the management unit takes as a WRITE: a WRITE, or a POST (R205). -/
def isWrite : ReqHeader → Bool
  | .tagged .write _ => true
  | .post => true
  | .tagged .read _ => false
  | .tagged .swap _ => false

/-- The command of the opcode table that an execution of a row is. -/
def MgmtRow.command : MgmtRow → Instr
  | .read => .managementRead
  | .write => .managementWrite
  | .windowEntry => .windowEntryWrite
  | .configuration => .configurationWrite
  | .interval => .rePresentIntervalWrite
  | .swap => .managementSwap
  | .enumerate => .enumerate
  | .release => .release
  | .branchReset => .branchReset
  | .dormant => .dormant
  | .wake => .wake
  | .noticeAck => .noticeAck
  | .clearCounters => .clearCounters

/-- The state in which the management unit carries out the head of its input queue: the head has left, and the place it
frees has retested a held request (R202, R33). -/
def State.afterHeadLeaves (s : State) : State :=
  State.retestHeld { s with mgmtQueue := s.mgmtQueue.tail }

/-- The unit's next request is the write of the words given at an offset. -/
def State.nextWrite (s : State) (h : ReqHeader) (offset : Nat) (data : List Word) : Prop :=
  isWrite h = true ∧
    s.mgmtQueue.head? = some { hdr := h, offset := offset, count := data.length, data := data }

/-- t is the lowest-numbered branch tag free on branch b (R44, R48). -/
def State.isLowestFreeTag (s : State) (b : Branch) (t : BTag) : Prop :=
  t ∉ s.heldBranchTags b ∧ ∀ t' : BTag, t' < t → t' ∈ s.heldBranchTags b

/-- e is the lowest-numbered FREE entry (R48). -/
def State.isLowestFreeEntry (s : State) (e : EntryIx) : Prop :=
  s.entry e = .free ∧ ∀ e' : EntryIx, e' < e → s.entry e' ≠ .free

/-- i is the lowest-numbered valid window entry whose window contains a span offset (R10). -/
def State.isMatch (s : State) (off : Nat) (i : WindowIx) : Prop :=
  (s.windows[i]).contains off = true ∧ ∀ j : WindowIx, j < i → (s.windows[j]).contains off = false

/-- The classifier may take the head of the ingress buffer, which is request r: no request is held, and a tagged request
finds an egress slot and its tag free (R24, R25, R26). -/
def State.mayTake (s : State) (r : Request) : Prop :=
  s.held = false ∧ s.ingress.head? = some r ∧
    (hdrTags r.hdr ≠ [] → s.reservations + s.replyFrames < Config.replySlots) ∧ ∀ t ∈ hdrTags r.hdr, t ∉ s.tagReg

/-- The head has left the ingress buffer, and its place is owed to the parent (R20, R25); a CREDIT is then due, behind the frame
that U has begun (R191; assumption 14). -/
def State.headGone (s : State) : State :=
  { s with ingress := s.ingress.tail, u := { s.uBegun with owed := s.u.owed + 1 } }

/-- What the parent and the counters see of a request refused at its take: a tagged one is answered with the status, detail 0
and no data, and holds no tag and no reservation afterward; a POST is counted as dropped (R28, R39). -/
def State.refusedAtTake (h : ReqHeader) (status : Status) (s : State) : State :=
  match h with
  | .tagged _ t => s.placeEgress (.reply { tag := t, status := status, detail := 0, data := [] })
  | .post => { s with classifier := { s.classifier with postDropped := s.classifier.postDropped + 1 } }

/-- The request is malformed by one of the tests of R29. -/
def Request.isMalformed (r : Request) : Prop :=
  r.count.toNat = 0 ∨ 16 < r.count.toNat ∨ r.addr.toNat % 4 ≠ 0 ∨ (isSwap r.hdr = true ∧ r.count.toNat ≠ 1) ∨
    r.data.length ≠ requiredWords r.hdr r.count.toNat

/-- A well-formed request starts in the span of an ASSIGNED part, at a span offset (R1, R30, R31). -/
def State.startsAt (s : State) (r : Request) (off : Nat) : Prop :=
  ¬r.isMalformed ∧ ∃ base, s.member = some base ∧ base.toNat ≤ r.addr.toNat ∧
    r.addr.toNat < base.toNat + 2 ^ s.spanExp ∧ off = r.addr.toNat - base.toNat

/-- The request starts in window i, which admits its kind and in which it ends (R5, R10, R11). -/
def State.fitsWindow (s : State) (r : Request) (off : Nat) (i : WindowIx) : Prop :=
  s.startsAt r off ∧ Config.managementBytes ≤ off ∧ s.isMatch off i ∧ (s.windows[i]).rights.admits r.hdr = true ∧
    off + 4 * r.count.toNat - 1 < (s.windows[i]).offset.toNat + 2 ^ (s.windows[i]).sizeExp.toNat

/-- The address a request starting at a span offset has behind window i (R12). -/
def State.translated (s : State) (off : Nat) (i : WindowIx) : Nat :=
  (s.windows[i]).target.toNat + (off - (s.windows[i]).offset.toNat)

/-- The issue conditions of R44 hold for a head: those any head needs, and, for a tagged head, a free branch tag, a FREE entry
and an entry count below the outstanding limit. -/
def State.issuable (s : State) (b : Branch) (q : Slot) : Prop :=
  ((s.br b).state = .active ∨ (s.br b).state = .draining) ∧ (s.br b).port.link = .up ∧ 1 ≤ (s.br b).credit ∧
    (s.br b).clearOwed = false ∧
    (hdrTags q.hdr ≠ [] → s.entryCount b < (s.br b).config.limit ∧ (∃ t, t ∉ s.heldBranchTags b) ∧
      ∃ e : EntryIx, s.entry e = .free)

/-- The reply frames of the egress queue, in its order. -/
def State.replies (s : State) : List EgressFrame :=
  s.egress.filter EgressFrame.isReply

/-- The REPLYs that answer requests under the tags given, with a status, detail 0 and no data. -/
def repliesOf (tags : List UTag) (status : Status) : List EgressFrame :=
  tags.map fun t => .reply { tag := t, status := status, detail := 0, data := [] }

/-- The upstream tags of branch b's forward queue, in queue order (R55). -/
def State.queueTags (s : State) (b : Branch) : List UTag :=
  (s.br b).queue.flatMap fun q => hdrTags q.hdr

/-- The upstream tags of the WAITING entries of branch b whose position meets a condition, in ascending order of entry
number (R81). -/
def State.waitingTags (s : State) (b : Branch) (sel : Position → Bool) : List UTag :=
  s.entries.toList.flatMap fun e =>
    match e with
    | .waiting c t _ => if c.branch = b ∧ sel c.position then [t] else []
    | .free => []
    | .orphaned _ _ _ => []

/-- The notices once a self cause is raised: the cause is added to the self notice as a merge, or makes one at the tail; every
other notice keeps its body, its counts and its place (R153). -/
def withCause (c : Cause) (ns : List Notice) : List Notice :=
  if ns.any (fun n => n.source == .self) then
    ns.map fun n =>
      match n.body with
      | .self causes => { n with body := .self (causes ||| c.toSet), merges := min 15 (n.merges + 1) }
      | .attachment _ _ _ => n
  else ns ++ [{ body := .self c.toSet, merges := 0, presentations := 0 }]

/-- What the notice unit makes of a happening that raises causes, in the order given, and removes the notices of some sources. The
notices that stay keep their order. Where a new notice has become head its presentation falls due; where none is left the
timer stops and the owed mark is cleared (R149, R153, R160, R161). -/
def State.noticesAfter (causes : List Cause) (gone : Source → Bool) (s : State) : State :=
  let kept := (causes.foldl (fun ns c => withCause c ns) s.notices).filter fun n => !gone n.source
  let joins := if causes = [] ∨ s.hasNotice .self = true then 0 else 1
  let counted := { s with
    notices := kept
    noticeUnit := { s.noticeUnit with
      joined := s.noticeUnit.joined + BitVec.ofNat 32 joins
      merged := s.noticeUnit.merged + BitVec.ofNat 32 (causes.length - joins) } }
  if kept = [] then (if s.notices = [] then counted else { counted with rePresentTimer := none, presentationOwed := false })
  else if kept.head?.map Notice.source = s.notices.head?.map Notice.source then counted
  else counted.presentationDue

/-- The source is the attachment at a position of branch b that is named. -/
def Source.isOf (b : Branch) (gone : Position → Bool) : Source → Bool
  | .self => false
  | .attachment c p => c == b && gone p

/-- State t has of the notice unit, of the frames in the egress queue and of U what an event of a branch leaves there in state s:
the notices are those of noticesAfter, with the ATTENTION frame that may come of them; the frames placed stand behind those
that waited, in an order among REPLYs and ATTENTION that is free (assumption 3); a QUIET U with a frame placed is woken
(R58, R81, R160, R161, R176, R179). -/
def State.NotesEvent (s t : State) (causes : List Cause) (gone : Source → Bool) : Prop :=
  t.notices = (s.noticesAfter causes gone).notices ∧
    t.noticeUnit = (s.noticesAfter causes gone).noticeUnit ∧
    t.rePresentTimer = (s.noticesAfter causes gone).rePresentTimer ∧
    t.presentationOwed = (s.noticesAfter causes gone).presentationOwed ∧
    t.egress.filter (fun f => !f.isReply) = (s.noticesAfter causes gone).egress.filter (fun f => !f.isReply) ∧
    s.egress <+: t.egress ∧ t.choices = s.choices + 1 ∧
    (if s.u.port.link = .quiet ∧ t.egress ≠ s.egress then
      t.u = { s.u with port := s.trained s.u.port } ∧
        t.upstream = { s.upstream with wakes := s.upstream.wakes + 1 }
    else t.u = s.u ∧ t.upstream = s.upstream)

/-- The number of ORPHANED entries of branch b. -/
def State.orphanCount (s : State) (b : Branch) : Nat :=
  s.entries.toList.countP (PendingEntry.orphanedOn b)

/-- A LOST record gives its range, at base, back to a member: the same identity and size exponent (R96). -/
def Record.reclaims (r : Record) (m : Member) (base : Word) : Prop :=
  ∃ old, r = .lost old (some base) ∧ old.identity = m.identity ∧ old.sizeExp = m.sizeExp

/-- What a chain break nearer than position p makes of the record there, with the working position of a running assign phase:
ASSIGNED and UNPLACED become LOST, and so does IDENTIFIED at the working position (R112, R113). -/
def Record.brokenOff (working : Option Position) (p : Position) : Record → Record
  | .assigned m base => .lost m (some base)
  | .unplaced m => .lost m none
  | .identified m base => if working = some p then .lost m (some base) else .identified m base
  | .vacant => .vacant
  | .lost m base => .lost m base

/-- The write is done: it is counted, with the command it carries, and answered OK if it is tagged (R206). -/
def State.commandDone (h : ReqHeader) (s : State) : State :=
  State.answer h .ok
    { s with mgmt := { s.mgmt with writes := s.mgmt.writes + 1, commands := s.mgmt.commands + 1 } }

/-- The write is refused: it is counted under its status, and as dropped if it is a POST, and it is answered with the status
if it is tagged (R205, R213). -/
def State.writeRefused (h : ReqHeader) (status : Status) (s : State) : State :=
  State.answer h status { s with mgmt := s.mgmt.countRefusal h status }

/-- Base j of the placement candidates of a member of size exponent k (R95). -/
def BranchUnit.candidate (u : BranchUnit) (k j : Nat) : Nat :=
  u.config.poolBase.toNat + j * 2 ^ k

/-- A candidate ends within the pool (R95). -/
def BranchUnit.fitsPool (u : BranchUnit) (k j : Nat) : Prop :=
  u.candidate k j + 2 ^ k ≤ u.config.poolBase.toNat + 2 ^ u.config.poolExp

/-- A candidate for position p shares no address with a range held at another position (R95). -/
def BranchUnit.isClear (u : BranchUnit) (p : Position) (k j : Nat) : Prop :=
  ∀ h ∈ u.heldRanges p, overlaps (u.candidate k j) k h = false

end Sys2Proof.Machine
end

