-- ==== Sys2Proof/Certificates/Slice0/Obligations.lean ====
section
/-!
DEFINITION. The statements for the provers. Each docstring names the rules of the spec that the statement speaks of; a
clause that rests on a choice of the model names the assumption that makes it.
-/

open Sys2Proof Sys2Proof.Machine

/-! ### The step and the queue of commands -/

/-- A step of a state with a command at the front of its queue is that command carried out on the state with the rest of
the queue. With no command waiting, a timer whose time has come runs out: of the timers that run, the first of the earliest.
With no timer due, one microsecond passes and nothing else changes (assumptions 1 and 2: the queue and the tick are the
model's). -/
def Obligations.StepTakesFrontCommand : Prop :=
  (∀ (c : Instr) (rest : List Instr) (s : State),
    step { s with pending := c :: rest } = exec c { s with pending := rest }) ∧
  ∀ s : State, s.pending = [] →
    (∀ (d : Time) (c : Instr) (before after : List (Time × Instr)), s.timers = before ++ (d, c) :: after → d ≤ s.now →
      (∀ x ∈ before, d < x.1) → (∀ x ∈ after, d ≤ x.1) → step s = exec c s) ∧
    ((∀ x ∈ s.timers, s.now < x.1) → step s = .next { s with now := s.now + 1 })

/-- Every command answers a next state in every state. It leaves the commands that wait and the identity number as they were, it
never turns the clock back, and no command but POWER_ON_RESET changes S (R166, R200; the clock and the queue of commands are
the model's, assumptions 1 and 2). -/
def Obligations.EveryCommandAnswersAndLeavesTheFixedThings : Prop :=
  ∀ (c : Instr) (s : State),
    ∃ t, exec c s = .next t ∧ t.pending = s.pending ∧ t.identity = s.identity ∧ s.now ≤ t.now ∧
      ((∀ span1 span0, c ≠ .powerOnReset span1 span0) → t.spanExp = s.spanExp)

/-! ### Reset -/

/-- The state after reset keeps every law of Safety.lean. -/
def Obligations.ResetKeepsEveryLaw : Prop :=
  State.reset.TagLaw ∧ State.reset.CreditLaw ∧ State.reset.BranchesLawful ∧ State.reset.DormancyLaw ∧
    State.reset.BranchTagLaw ∧ State.reset.RangeLaw ∧ State.reset.WindowLaw ∧ State.reset.NoticeLaw ∧
    State.reset.UpstreamLaw ∧ State.reset.RequestLaw ∧ State.reset.RequestsOnTime

/-- POWER_ON_RESET, in any state: everything is as right after reset, but for the clock, the identity number, the model's
own counter of choices and the commands waiting; S is as the straps stand (R173, R175, R200). -/
def Obligations.PowerOnResetFromAnyState : Prop :=
  ∀ (span1 span0 : Bool) (s : State),
    exec (.powerOnReset span1 span0) s =
      .next
        { State.reset with
          now := s.now
          identity := s.identity
          choices := s.choices
          pending := s.pending
          spanExp := if span1 then (if span0 then 28 else 24) else (if span0 then 20 else 16)
          u := { State.reset.u with port := LinkPort.afterPowerOn s.now }
          branches := Vector.replicate 4 (BranchUnit.afterPowerOn s.now) }

/-- RESET_ASSERTED: every port is OFF with its timers stopped, a branch port holds nothing unsent and no credit, U nothing unsent
and no frame being sent; nothing else changes (R175, R185, R192; that nothing else changes until the release is assumption
6). -/
def Obligations.ResetAssertedHoldsPortsOff : Prop :=
  ∀ s : State, ∃ t, exec .resetAsserted s = .next t ∧
    t.u = { s.u with
      port := { s.u.port with link := .off, badRun := 0, attemptTimer := none, relistenTimer := none }
      unsent := []
      sending := none } ∧
    (∀ b : Branch, t.br b = { s.br b with
      port := { (s.br b).port with link := .off, badRun := 0, attemptTimer := none, relistenTimer := none }
      credit := 0
      unsent := [] }) ∧
    t = { s with resetPin := true, u := t.u, branches := t.branches }

/-- U_CLEAR while U is UP: the link reset of R173. Everything in flight is gone without a reply, the branches are DOWN at
their default configuration and training, and the places of the discarded frames are owed; the counters, S and the identity
number are kept, and U stays UP (R171, R22, R42, R59, R85, R118, R144, R163). -/
def Obligations.ClearFromParentIsLinkReset : Prop :=
  ∀ s : State, s.u.port.link = .up → ∃ t, exec .uClear s = .next t ∧
    (∀ b : Branch, t.br b = { BranchUnit.afterPowerOn s.now with
      controller := (s.br b).controller
      forwarder := (s.br b).forwarder
      chain := (s.br b).chain
      port := { (s.br b).port with
        link := .training
        badRun := 0
        relistenTimer := none
        attemptTimer :=
          if (s.br b).port.link = .training then (s.br b).port.attemptTimer else some (s.now + Config.trainingAttempt) } }) ∧
    t = { s with
      member := none
      u := { s.u with
        port := { s.u.port with badRun := 0 }
        owed := s.u.owed + s.ingress.length
        unsent := []
        sending := none }
      upstream := { s.upstream with clears := s.upstream.clears + 1 }
      ingress := []
      held := false
      tagReg := []
      windows := Vector.replicate 32 Window.cleared
      egress := []
      reservations := 0
      mgmtQueue := []
      entries := Vector.replicate 32 PendingEntry.free
      branches := t.branches
      notices := []
      rePresentTimer := none
      presentationOwed := false
      interval := 50 }

/-- A departure of U from UP: counted, the link reset of R173, and U trains, with the member frames handed to it discarded and
the places of the discarded requests owed: that owed rises here too is assumption 18, since the spec states the rise where U
stays UP and sets the counts afresh at the next UP. FAR_END_TRAINS and LOSS_OF_SIGNAL each are one, and so is the bad frame that
is the third in a row (R20, R22, R42, R59, R85, R118, R144, R163, R172, R173, R184, R185, R187). -/
def Obligations.UpstreamLinkLossIsLinkReset : Prop :=
  ∀ s : State, s.u.port.link = .up → s.resetPin = false → ∃ t,
    exec (.farEndTrains .u) s = .next t ∧ exec (.lossOfSignal .u) s = .next t ∧
    (s.u.port.badRun = 2 → exec (.badFrame .u) s = .next { t with
      u := { t.u with port := { t.u.port with counters := { t.u.port.counters with
        badFrames := t.u.port.counters.badFrames + 1 } } } }) ∧
    (∀ b : Branch, t.br b = { BranchUnit.afterPowerOn s.now with
      controller := (s.br b).controller
      forwarder := (s.br b).forwarder
      chain := (s.br b).chain
      port := { (s.br b).port with
        link := .training
        badRun := 0
        relistenTimer := none
        attemptTimer :=
          if (s.br b).port.link = .training then (s.br b).port.attemptTimer else some (s.now + Config.trainingAttempt) } }) ∧
    t = { s with
      member := none
      u := { s.u with
        port := { s.u.port with
          link := .training
          badRun := 0
          attemptTimer := some (s.now + Config.trainingAttempt)
          relistenTimer := none }
        owed := s.u.owed + s.ingress.length
        unsent := []
        sending := none }
      upstream := { s.upstream with linkLosses := s.upstream.linkLosses + 1 }
      ingress := []
      held := false
      tagReg := []
      windows := Vector.replicate 32 Window.cleared
      egress := []
      reservations := 0
      mgmtQueue := []
      entries := Vector.replicate 32 PendingEntry.free
      branches := t.branches
      notices := []
      rePresentTimer := none
      presentationOwed := false
      interval := 50 }

/-! ### The U port and the upstream member logic -/

/-- REQUEST_FRAME while U is UP: against a granted credit the frame joins the ingress buffer whole and spends the credit;
without one it is an overrun, discarded and counted. Either way it is a good frame. With more than 16 data words it is longer
than any frame, and so a bad one, on any link (R19, R20, R21, R187). -/
def Obligations.RequestFrameJoinsOrOverruns : Prop :=
  ∀ (hdr : ReqHeader) (addr : Word) (count : Byte) (data : List Word) (s : State),
    (s.u.port.link = .up → data.length ≤ 16 →
      exec (.requestFrame hdr addr count data) s =
        .next
          (if s.u.granted = 0 then
            { s with
              u := { s.u with port := { s.u.port with badRun := 0 } }
              upstream := { s.upstream with overrun := s.upstream.overrun + 1 } }
          else
            { s with
              u := { s.u with port := { s.u.port with badRun := 0 }, granted := s.u.granted - 1 }
              ingress := s.ingress ++ [{ hdr := hdr, addr := addr, count := count, data := data }] })) ∧
    (16 < data.length → exec (.requestFrame hdr addr count data) s = exec (.badFrame .u) s)

/-- U_CREDIT_SENT, U_MEMBER_FRAME_SENT and EGRESS_FRAME_SENT: each removes the frame that U is sending, which State.nextFrame
gives, and changes nothing where that is a frame of another kind. A frame once begun is sent to its end, after a HUSH too.
While U is UP and none is begun, U begins a CREDIT of the whole of owed, or the oldest member frame, in the order in which they
fell due, else the oldest egress frame; credit that falls due later is carried by the next CREDIT. The bytes of each frame, from
the header to its last word, are given. While U is not UP it begins no frame, and takes none that arrives (R20, R154, R166, R167,
R170, R177, R182, R185, R191, R194, R214, R215; that a frame still on its way to a QUIET U is not taken is assumption 8, that a
frame is begun as soon as it may be is assumption 14, that a sending waits for its command is assumption 16, that a frame at a U
in OFF or TRAINING is not counted is assumption 17, and that bits 7:3 of a DESCRIPTOR's flags byte are zero is assumption
23). -/
def Obligations.WhatPassesOnU : Prop :=
  (∀ s : State,
    (∀ n, s.u.sending = some (.credit n) →
      s.nextFrame .u = some (.credit (BitVec.ofNat 8 n)) ∧ s.uBegun = s.u ∧
        exec .uCreditSent s = .next { s with u := { s.u with
          granted := s.u.granted + n, owed := s.u.owed - n, sending := none } } ∧
        exec .uMemberFrameSent s = .next s ∧ exec .egressFrameSent s = .next s) ∧
    (s.u.port.link = .up → s.u.sending = none → 0 < s.u.owed →
      (∀ h rest, s.u.unsent = h :: rest → h.afterCredit = true) →
      ∀ behind : List HandedFrame, behind = s.u.unsent.map (fun h => { h with afterCredit := false }) →
      s.nextFrame .u = some (.credit (BitVec.ofNat 8 s.u.owed)) ∧
        s.uBegun = { s.u with sending := some (.credit s.u.owed), unsent := behind } ∧
        exec .uCreditSent s = .next { s with u := { s.u with
          granted := s.u.granted + s.u.owed, owed := 0, unsent := behind } } ∧
        exec .uMemberFrameSent s = .next s ∧ exec .egressFrameSent s = .next s) ∧
    (∀ h rest, s.u.unsent = h :: rest →
      s.u.sending = some .member ∨
        (s.u.port.link = .up ∧ s.u.sending = none ∧ (h.afterCredit = false ∨ s.u.owed = 0)) →
      s.nextFrame .u = some h.frame.wire ∧ s.uBegun = { s.u with sending := some .member } ∧
        exec .uMemberFrameSent s = .next { s with u := { s.u with unsent := rest, sending := none } } ∧
        exec .uCreditSent s = .next s ∧ exec .egressFrameSent s = .next s) ∧
    (∀ f rest, s.egress = f :: rest →
      s.u.sending = some .egress ∨
        (s.u.port.link = .up ∧ s.u.sending = none ∧ s.u.owed = 0 ∧ s.u.unsent = []) →
      s.nextFrame .u = some f.wire ∧ s.uBegun = { s.u with sending := some .egress } ∧
        exec .egressFrameSent s = .next { s with egress := rest, u := { s.u with sending := none } } ∧
        exec .uCreditSent s = .next s ∧ exec .uMemberFrameSent s = .next s) ∧
    (s.u.sending = none → s.u.port.link ≠ .up ∨ (s.u.owed = 0 ∧ s.u.unsent = [] ∧ s.egress = []) →
      s.nextFrame .u = none ∧ s.uBegun = s.u ∧ exec .uCreditSent s = .next s ∧ exec .uMemberFrameSent s = .next s ∧
        exec .egressFrameSent s = .next s)) ∧
  (∀ low : Nat → Nat → List Byte, (low = fun n v => (List.range n).map fun i => BitVec.ofNat 8 (v / 256 ^ i)) →
    (∀ n : Byte, (WireFrame.credit n).body = [0x20, 0, n]) ∧
    (∀ (r : ReplyFrame) (n : Nat),
      [Status.ok, .fault, .noroute, .denied, .bounds, .malformed, .absent, .busy, .lost, .timeout, .flushed, .badreply,
        .refused, .partialWrite, .badentry, .readonly][n]? = some r.status →
      (EgressFrame.reply r).wire.body =
        [0x05, r.tag.setWidth 8, BitVec.ofNat 8 n, r.detail] ++ r.data.flatMap fun w => low 4 w.toNat) ∧
    (∀ code : Byte, (EgressFrame.attention code).wire.body = [0x18, 0, code, 0]) ∧
    (∀ d : OwnDescriptor, (MemberFrame.descriptor d).wire.body =
      [0x11, 0] ++ low 2 d.cls.toNat ++ low 4 d.identity.toNat ++
        [BitVec.ofNat 8 d.sizeExp, BitVec.ofNat 8 ((if d.flags.attentionCapable then 1 else 0) +
          (if d.flags.sleepCapable then 2 else 0) + (if d.flags.concentrator then 4 else 0)), d.hop]) ∧
    ∀ hop : Byte, (MemberFrame.empty hop).wire.body = [0x12, 0, hop] ∧
      (MemberFrame.assigned hop).wire.body = [0x14, 0, hop]) ∧
  ∀ s : State, s.u.port.link ≠ .up →
    (∀ h a n d, d.length ≤ 16 → exec (.requestFrame h a n d) s = .next s) ∧ exec .uIdentify s = .next s ∧
      (∀ base, exec (.uAssign base) s = .next s ∧ exec (.uRelease base) s = .next s) ∧
      exec .uClear s = .next s ∧ exec .uHush s = .next s ∧ (∀ k, exec (.uUnexpectedFrame k) s = .next s) ∧
      ∀ n, exec (.uCreditReceived n) s = .next s

/-- U_IDENTIFY, U_ASSIGN and U_RELEASE while U is UP. IDENTIFY is answered with the DESCRIPTOR by an UNASSIGNED part, with EMPTY
and hop count 0 by an ASSIGNED one. An UNASSIGNED part takes a base that is a multiple of 2^S, hands ASSIGNED with hop count 0
to the port and makes an owed presentation; any other ASSIGN is ignored and counted. RELEASE of its own base makes the part
UNASSIGNED: a held request is then answered NOROUTE if tagged, or dropped, and leaves the buffer; any other RELEASE is
ignored and counted. A frame handed stands behind the frame being sent, those that wait, and a CREDIT that is due and not begun.
Nothing else is touched (R33, R157, R165, R166, R167, R168, R169, R191; the frame being sent is recorded, assumption 14). -/
def Obligations.MemberFramesOfTheParent : Prop :=
  ∀ (base : Word) (s : State), s.u.port.link = .up →
    ∀ g : State, g = { s with u := { s.u with port := { s.u.port with badRun := 0 } } } →
    ∀ handed : MemberFrame → UPort, (handed = fun f => { g.uBegun with
      unsent := g.uBegun.unsent ++ [{ frame := f, afterCredit := decide (g.uBegun.creditOnLine < s.u.owed) }] }) →
    ∀ answer : MemberFrame, (answer = match s.member with
      | none => .descriptor
          { cls := 0x0C24, identity := s.identity, sizeExp := s.spanExp
            flags := { attentionCapable := true, sleepCapable := true, concentrator := true }, hop := 0 }
      | some _ => .empty 0) →
    exec .uIdentify s = .next { g with u := handed answer } ∧
    (s.member = none → base.toNat % 2 ^ s.spanExp = 0 →
      ∀ a : State, a = { g with
        member := some base
        presentationOwed := false
        u := handed (.assigned 0)
        upstream := { s.upstream with assigns := s.upstream.assigns + 1 } } →
      exec (.uAssign base) s = .next (if s.presentationOwed then a.presentationDue else a)) ∧
    (s.member ≠ none ∨ base.toNat % 2 ^ s.spanExp ≠ 0 →
      exec (.uAssign base) s =
        .next { g with upstream := { s.upstream with ignored := s.upstream.ignored + 1 } }) ∧
    (s.member = some base →
      ∀ a : State, a = { g with
        member := none, upstream := { s.upstream with releases := s.upstream.releases + 1 } } →
      (s.held = false → exec (.uRelease base) s = .next a) ∧
      ∀ r rest, s.held = true → s.ingress = r :: rest →
        exec (.uRelease base) s =
          .next (State.refuseRequest r.hdr .noroute (State.dropIngressHead { a with held := false }))) ∧
    (s.member ≠ some base →
      exec (.uRelease base) s =
        .next { g with upstream := { s.upstream with ignored := s.upstream.ignored + 1 } })

/-- U_HUSH while U is UP: U goes QUIET, or, with a frame in the egress queue, signals wake at once and trains, and the wake is
counted. The frame that U is sending is still there, and its own command sends it to its end: credit is granted, or the frame
leaves its queue. A frame that is being sent is in its queue until then, so an egress frame being sent is one for which U
signals wake. The member frames that wait are kept, to leave ahead of the new link's CREDIT. Nothing else changes (R20, R167,
R170, R177, R179, R180, R191, R194; which frame U is sending is assumption 14, and that a sending waits for its command is
assumption 16). -/
def Obligations.HushFromParentQuietsU : Prop :=
  ∀ s : State, s.u.port.link = .up → s.resetPin = false →
    ∀ waiting : List HandedFrame, waiting = s.u.unsent.map (fun h => { h with afterCredit := false }) →
    (s.egress = [] →
      exec .uHush s = .next { s with u := { s.u with
        port := { s.u.port with link := .quiet, badRun := 0, attemptTimer := none, relistenTimer := none }
        unsent := waiting
        sending := s.uBegun.sending } }) ∧
    (s.egress ≠ [] →
      exec .uHush s = .next { s with
        u := { s.u with
          port := { s.u.port with
            link := .training
            badRun := 0
            attemptTimer := some (s.now + Config.trainingAttempt)
            relistenTimer := none }
          unsent := waiting
          sending := s.uBegun.sending }
        upstream := { s.upstream with wakes := s.upstream.wakes + 1 } }) ∧
    ∀ t : State, exec .uHush s = .next t →
      (∀ n, s.uBegun.sending = some (.credit n) →
        exec .uCreditSent t = .next { t with u := { t.u with
          granted := s.u.granted + n, owed := s.u.owed - n, sending := none } }) ∧
      (∀ h rest, s.uBegun.sending = some .member → waiting = h :: rest →
        exec .uMemberFrameSent t = .next { t with u := { t.u with unsent := rest, sending := none } }) ∧
      (∀ f rest, s.uBegun.sending = some .egress → s.egress = f :: rest →
        exec .egressFrameSent t = .next { t with egress := rest, u := { t.u with sending := none } })

/-- Good frames, from their bytes to what they do. A frame of up to 16 data words, laid out and checked, is received as the
command of its kind and fields. Received bytes whose check matches are a frame of no use where the header names no kind, where
the length is not that of the kind's fixed fields, or where what follows them in a request or a REPLY is not whole words. The
frames that are discarded are each counted and make the bad-frame count 0, and do nothing else. A frame that only travels
toward a master counts as unexpected on U; a CREDIT on U, a frame of no use, and a frame that travels away from a master on a
branch count as discarded by the port (R167, R186 to R190, R199, R214, R215; the order of the check's bits is assumption
22). -/
def Obligations.DiscardedFramesAreCounted : Prop :=
  (∀ (p : Port) (f : WireFrame), f.data.length ≤ 16 →
    Received.command p { bytes := f.bytes, ended := true } = f.command p) ∧
  (∀ (p : Port) (code second : Byte) (fields : List Byte), fields.length ≤ 69 →
    ∀ (n : Nat) (any : Bool), n = fields.length →
    (any = ([0x01, 0x02, 0x03, 0x04, 0x05, 0x10, 0x11, 0x12, 0x13, 0x14, 0x15, 0x16, 0x17, 0x18, 0x19, 0x1A, 0x20].contains
      code.toNat)) →
    (any = false ∨ (code.toNat ∈ [0x10, 0x16, 0x17] ∧ n ≠ 0) ∨ (code.toNat ∈ [0x12, 0x14, 0x19, 0x1A, 0x20] ∧ n ≠ 1) ∨
      (code.toNat = 0x18 ∧ n ≠ 2) ∨ (code.toNat ∈ [0x13, 0x15] ∧ n ≠ 4) ∨ (code.toNat = 0x11 ∧ n ≠ 9) ∨
      (code.toNat ∈ [0x01, 0x02, 0x03, 0x04] ∧ (n < 5 ∨ (n - 5) % 4 ≠ 0)) ∨
      (code.toNat = 0x05 ∧ (n < 2 ∨ (n - 2) % 4 ≠ 0))) →
    Received.command p
      { bytes := (code :: second :: fields) ++ halfBytes (crc (code :: second :: fields)), ended := true } =
        .unknownFrameDiscarded p) ∧
  ∀ s : State,
    (s.u.port.link = .up →
      ∀ a : State, a = { s with u := { s.u with port := { s.u.port with badRun := 0 } } } →
      (∀ k, exec (.uUnexpectedFrame k) s =
        .next { a with upstream := { s.upstream with unexpected := s.upstream.unexpected + 1 } }) ∧
      ∀ d : State, d = { a with u := { a.u with port := { a.u.port with counters := { s.u.port.counters with
        discarded := s.u.port.counters.discarded + 1 } } } } →
      (∀ n, exec (.uCreditReceived n) s = .next d) ∧ exec (.unknownFrameDiscarded .u) s = .next d) ∧
    ∀ b : Branch, (s.br b).port.link = .up →
      ∀ d : State, d = s.setBr b { s.br b with port := { (s.br b).port with
        badRun := 0
        counters := { (s.br b).port.counters with discarded := (s.br b).port.counters.discarded + 1 } } } →
      exec (.unknownFrameDiscarded (.branch b)) s = .next d ∧ ∀ k, exec (.branchAwayFrame b k) s = .next d

/-! ### The link ports and the branch controller -/

/-- BAD_FRAME. What a port receives is bad where its check does not match, where it is shorter than a header and a check or longer
than 73 bytes, and where its end delimiter does not come. In UP, outside the HUSH window, it is counted and the bad-frame
count rises while it stays below 3; at 3 the port leaves UP just as it does when the far end trains. In the HUSH window, in
QUIET and in TRAINING it is only counted; a port in OFF, and one that takes nothing from its line while the re-listen timer
runs, takes none. In the HUSH window, and in a port that is not UP, a far end that trains and a loss of signal are not taken
either (R182, R184, R186, R187, R194, R196; that a port in TRAINING counts the bad frame and does nothing else is assumption
17, and the order of the check's bits assumption 22). -/
def Obligations.BadFramesCountAndThreeLeaveUp : Prop :=
  (∀ (p : Port) (r : Received),
    (r.ended = false ∨ r.bytes.length < 4 ∨ 73 < r.bytes.length ∨
      ∃ body lo hi, r.bytes = body ++ [lo, hi] ∧ lo.toNat + 256 * hi.toNat ≠ (crc body).toNat) →
    r.command p = .badFrame p) ∧
  ∀ (p : Port) (s : State),
    ∀ counted : State, counted = s.updPort p (fun q =>
      { q with counters := { q.counters with badFrames := q.counters.badFrames + 1 } }) →
    ((s.portOf p).link = .up → s.hushWindow p = false →
      ((s.portOf p).badRun + 1 < 3 →
        exec (.badFrame p) s = .next (counted.updPort p fun q => { q with badRun := q.badRun + 1 })) ∧
      (3 ≤ (s.portOf p).badRun + 1 → exec (.badFrame p) s = exec (.farEndTrains p) counted)) ∧
    ((s.portOf p).link = .up → s.hushWindow p = true → exec (.badFrame p) s = .next counted) ∧
    ((s.portOf p).link = .quiet → (s.portOf p).relistenTimer = none → exec (.badFrame p) s = .next counted) ∧
    ((s.portOf p).link = .training → exec (.badFrame p) s = .next counted) ∧
    ((s.portOf p).link = .off ∨ ((s.portOf p).link = .quiet ∧ (s.portOf p).relistenTimer ≠ none) →
      exec (.badFrame p) s = .next s) ∧
    ((s.portOf p).link ≠ .up ∨ s.hushWindow p = true →
      exec (.farEndTrains p) s = .next s ∧ exec (.lossOfSignal p) s = .next s)

/-- FAR_END_TRAINS and LOSS_OF_SIGNAL on the port of an ACTIVE or DRAINING branch, outside the HUSH window: a branch link loss.
The branch is DOWN and owes a CLEAR, its port trains with nothing unsent and no credit, its queue is empty, its entries are
FREE, its records that were known are LOST, a running enumeration is ABORTED; the queued and then the pending requests are
answered LOST, in that order, and their tags leave the register; LINK, and ENUM where an enumeration ran, are raised, and
the notices of the lost attachments are gone. The other notices keep their bodies and their order, and a new head is presented.
Nothing else changes (R55, R58, R76, R81, R108, R115, R126, R153, R160, R161, R184, R185; the place of an ATTENTION frame among
the REPLYs is free, assumption 3). -/
def Obligations.BranchLinkLossEndsTheBranchsWork : Prop :=
  ∀ (b : Branch) (s : State), s.resetPin = false → (s.br b).port.link = .up → (s.br b).hushWaits = false →
    ((s.br b).state = .active ∨ (s.br b).state = .draining) →
    ∃ t, exec (.farEndTrains (.branch b)) s = .next t ∧ exec (.lossOfSignal (.branch b)) s = .next t ∧
      t.br b = { s.br b with
        state := .down
        clearOwed := true
        controller := { (s.br b).controller with linkLosses := (s.br b).controller.linkLosses + 1 }
        queue := []
        forwarder := { (s.br b).forwarder with
          flushed := (s.br b).forwarder.flushed + BitVec.ofNat 32 (s.br b).queue.length }
        records := mapTable (fun _ r => r.lose) (s.br b).records
        enumeration := .idle
        outcome := if (s.br b).enumerating then .aborted else (s.br b).outcome
        port := { (s.br b).port with
          link := .training
          badRun := 0
          attemptTimer := some (s.now + Config.trainingAttempt)
          relistenTimer := none }
        credit := 0
        unsent := [] } ∧
      (∀ c : Branch, c ≠ b → t.br c = s.br c) ∧
      (∀ e : EntryIx, t.entry e = if (s.entry e).onBranch b then .free else s.entry e) ∧
      t.replies = s.replies ++ repliesOf (s.queueTags b ++ s.waitingTags b fun _ => true) .lost ∧
      t.tagReg = s.tagReg.filter (fun g => !(s.queueTags b ++ s.waitingTags b fun _ => true).contains g) ∧
      t.reservations = s.reservations - (s.queueTags b ++ s.waitingTags b fun _ => true).length ∧
      t.tracker = { s.tracker with
        cut := s.tracker.cut + BitVec.ofNat 32 (s.waitingTags b fun _ => true).length
        abandoned := s.tracker.abandoned + BitVec.ofNat 32 (s.orphanCount b) } ∧
      t.selfCauses = s.selfCauses ||| (Cause.link b).toSet |||
        (if (s.br b).enumerating then (Cause.enum b).toSet else 0) ∧
      (∀ p : Position, (s.record b p).losable = true → t.hasNotice (.attachment b p) = false) ∧
      State.NotesEvent s t ([.link b] ++ if (s.br b).enumerating then [.enum b] else [])
        (Source.isOf b fun p => (s.record b p).losable) ∧
      t = { s with
        u := t.u
        upstream := t.upstream
        tagReg := t.tagReg
        egress := t.egress
        reservations := t.reservations
        entries := t.entries
        tracker := t.tracker
        branches := t.branches
        notices := t.notices
        rePresentTimer := t.rePresentTimer
        presentationOwed := t.presentationOwed
        noticeUnit := t.noticeUnit
        choices := t.choices }

/-- TRAINING_ATTEMPT_TIMEOUT: the attempt that runs out is counted and the next one begins at that happening, unless an age or
reply deadline comes first: then nothing happens yet (assumption 1). LINK_ENTERS_UP for a port in TRAINING: on U the credit counts
are set afresh, no frame is being sent, and the frames that wait are those that waited, so that a member frame carried over leaves
first and then the CREDIT; that a frame begun before a HUSH whose sending has not come waits with them is assumption 14. A DOWN or
WAKING branch becomes ACTIVE with no credit, and hands CLEAR to the port where it owes
one. Nothing else changes (R20, R125, R127, R137, R170, R178, R183). -/
def Obligations.TrainingIsRepeatedUntilUp : Prop :=
  ∀ s : State,
    (∀ (p : Port) (d : Time), (s.portOf p).link = .training → (s.portOf p).attemptTimer = some d →
      (s.reaches d = true → exec (.trainingAttemptTimeout p) s =
        .next (State.updPort p (fun q =>
          { q with
            counters := { q.counters with trainingAttempts := q.counters.trainingAttempts + 1 }
            attemptTimer := some (max s.now d + Config.trainingAttempt) }) { s with now := max s.now d })) ∧
      (s.reaches d = false → exec (.trainingAttemptTimeout p) s = .next s)) ∧
    (s.u.port.link = .training →
      exec (.linkEntersUp .u) s = .next { s with u := { s.u with
        port := { s.u.port with link := .up, badRun := 0, attemptTimer := none, relistenTimer := none }
        granted := 0
        owed := 16 - s.ingress.length
        sending := none } }) ∧
    ∀ b : Branch, (s.br b).port.link = .training → ((s.br b).state = .down ∨ ∃ d, (s.br b).state = .waking d) →
      exec (.linkEntersUp (.branch b)) s = .next (s.setBr b { s.br b with
        state := .active
        port := { (s.br b).port with link := .up, badRun := 0, attemptTimer := none, relistenTimer := none }
        credit := 0
        unsent := (s.br b).unsent ++ (if (s.br b).clearOwed then [.clear] else []) })

/-- WAKE_TAKEN by a port in QUIET whose re-listen timer is stopped. U trains. On a branch with the wake latch clear, the latch is
set and the branch is WAKING with its wake timer started and its port training; with the latch set the wake is
refused, counted and raised as the WAKE cause, and the port listens again after 1 ms. While the re-listen timer runs
nothing is taken. QUIET_RELISTEN_TIMEOUT stops the timer; with the far end still signalling the port takes a wake as a new
happening (R134, R136, R179, R195, R196; where an age or reply deadline comes before a timer's time, nothing happens yet,
assumption 1). -/
def Obligations.WakeIsHonouredOrRefused : Prop :=
  ∀ s : State, s.resetPin = false →
    (s.u.port.link = .quiet → s.u.port.relistenTimer = none →
      exec (.wakeTaken .u) s = .next { s with u := { s.u with port := { s.u.port with
        link := .training
        badRun := 0
        attemptTimer := some (s.now + Config.trainingAttempt)
        relistenTimer := none } } }) ∧
    ∀ b : Branch, (s.br b).port.link = .quiet →
      ((s.br b).port.relistenTimer ≠ none → exec (.wakeTaken (.branch b)) s = .next s) ∧
      ((s.br b).port.relistenTimer = none →
        ((s.br b).wakeLatch = false →
          exec (.wakeTaken (.branch b)) s = .next (s.setBr b { s.br b with
            wakeLatch := true
            state := .waking (s.now + Config.wakeTimer)
            controller := { (s.br b).controller with wakes := (s.br b).controller.wakes + 1 }
            port := { (s.br b).port with
              link := .training
              badRun := 0
              attemptTimer := some (s.now + Config.trainingAttempt)
              relistenTimer := none }
            credit := 0 })) ∧
        ((s.br b).wakeLatch = true →
          exec (.wakeTaken (.branch b)) s = .next (State.raise (.wake b) (s.setBr b { s.br b with
            controller := { (s.br b).controller with wakesRefused := (s.br b).controller.wakesRefused + 1 }
            port := { (s.br b).port with relistenTimer := some (s.now + Config.quietRelisten) } })))) ∧
      ∀ d, (s.br b).port.relistenTimer = some d →
        ∀ a : State, a = State.setBr { s with now := max s.now d } b
          { s.br b with port := { (s.br b).port with relistenTimer := none } } →
        (s.reaches d = true → exec (.quietRelistenTimeout b false) s = .next a ∧
          exec (.quietRelistenTimeout b true) s = exec (.wakeTaken (.branch b)) a) ∧
        (s.reaches d = false → ∀ still, exec (.quietRelistenTimeout b still) s = .next s)

/-- CREDIT on a branch whose link is UP: an increment of 1 to 16 is added, up to 255, above which the overflow is counted; any
other is discarded and counted. Each is a good frame. On a link that is not UP the frame changes nothing: in QUIET it is
dropped without count by R192; in OFF and TRAINING it is not taken by R185, and that an increment outside 1 to 16 is not counted
there is assumption 17 (R185, R187, R192, R193). -/
def Obligations.CreditIsAddedUpTo255 : Prop :=
  ∀ (b : Branch) (n : Byte) (s : State),
    ((s.br b).port.link ≠ .up → exec (.credit b n) s = .next s) ∧
    ((s.br b).port.link = .up →
      (1 ≤ n.toNat → n.toNat ≤ 16 → (s.br b).credit + n.toNat ≤ 255 →
        exec (.credit b n) s = .next (s.setBr b { s.br b with
          port := { (s.br b).port with badRun := 0 }
          credit := (s.br b).credit + n.toNat })) ∧
      (1 ≤ n.toNat → n.toNat ≤ 16 → 255 < (s.br b).credit + n.toNat →
        exec (.credit b n) s = .next (s.setBr b { s.br b with
          port := { (s.br b).port with
            badRun := 0
            counters := { (s.br b).port.counters with
              creditOverflow := (s.br b).port.counters.creditOverflow + 1 } }
          credit := 255 })) ∧
      (n.toNat = 0 ∨ 16 < n.toNat →
        exec (.credit b n) s = .next (s.setBr b { s.br b with
          port := { (s.br b).port with
            badRun := 0
            counters := { (s.br b).port.counters with discarded := (s.br b).port.counters.discarded + 1 } } })))

/-- BRANCH_FRAME_SENT: the next frame of the port's order, which State.nextFrame gives, leaves while the link is UP, where it is a
request, IDENTIFY, ASSIGN or RELEASE frame; a CLEAR or HUSH waits for its own command, so it is not passed over. HUSH_SENT, where
HUSH is the next frame and the link is UP: the port enters QUIET with no credit; where the branch is already WAKING it goes on
into TRAINING. A command whose frame is not the next changes nothing. The bytes of each frame, from the header to its last word,
are given: a request carries its branch tag, the address as translated and its words (R50, R191, R194, R195, R197, R214, R215;
that a sending waits for its command is assumption 16). -/
def Obligations.BranchFramesLeaveInOrder : Prop :=
  ∀ (b : Branch) (f : BranchFrame) (rest : List BranchFrame) (s : State), s.resetPin = false →
    (s.br b).unsent = f :: rest →
    ((s.br b).port.link = .up → f ≠ .clear → f ≠ .resetClear → f ≠ .hush →
      exec (.branchFrameSent b) s = .next (s.setBr b { s.br b with unsent := rest })) ∧
    ((s.br b).port.link ≠ .up ∨ f = .clear ∨ f = .resetClear ∨ f = .hush → exec (.branchFrameSent b) s = .next s) ∧
    ((s.br b).port.link ≠ .up ∨ f ≠ .hush → exec (.hushSent b) s = .next s) ∧
    ((s.br b).port.link ≠ .up ∨ (f ≠ .clear ∧ f ≠ .resetClear) → exec (.branchClearSent b) s = .next s) ∧
    s.nextFrame (.branch b) = (if (s.br b).port.link = .up then some f.wire else none) ∧
    (∀ low : Word → List Byte, (low = fun v => (List.range 4).map fun i => BitVec.ofNat 8 (v.toNat / 256 ^ i)) →
      f.wire.body = match f with
        | .tagged k t addr n data =>
          [match k with | .read => 0x01 | .write => 0x02 | .swap => 0x03, t.setWidth 8] ++ low addr ++ [BitVec.ofNat 8 n] ++
            data.flatMap low
        | .post addr n data => [0x04, 0] ++ low addr ++ [BitVec.ofNat 8 n] ++ data.flatMap low
        | .identify => [0x10, 0]
        | .assign base => [0x13, 0] ++ low base
        | .release base => [0x15, 0] ++ low base
        | .clear => [0x16, 0]
        | .resetClear => [0x16, 0]
        | .hush => [0x17, 0]) ∧
    ((s.br b).port.link = .up → f = .hush → (s.br b).state = .dormant →
      exec (.hushSent b) s = .next (s.setBr b { s.br b with
        port := { (s.br b).port with link := .quiet, badRun := 0, attemptTimer := none, relistenTimer := none }
        credit := 0
        unsent := rest })) ∧
    ∀ d, (s.br b).port.link = .up → f = .hush → (s.br b).state = .waking d →
      exec (.hushSent b) s = .next (s.setBr b { s.br b with
        port := { (s.br b).port with
          link := .training
          badRun := 0
          attemptTimer := some (s.now + Config.trainingAttempt)
          relistenTimer := none }
        credit := 0
        unsent := rest })

/-- BRANCH_CLEAR_SENT, where a CLEAR is the next frame of the port's order and the link is UP: clear-owed is cleared, unless a
BRANCH-RESET has handed another CLEAR that still waits, whose own sending then clears it (assumption 13). With
auto-enumerate set and no enumeration running, one starts: counted, outcome NONE, the identify timer started and IDENTIFY
handed behind what waits. With one running it goes on untouched; with auto-enumerate clear nothing starts (R99, R100, R127,
R218). -/
def Obligations.ClearSentMayStartEnumeration : Prop :=
  ∀ (b : Branch) (f : BranchFrame) (rest : List BranchFrame) (s : State),
    (s.br b).port.link = .up → (s.br b).unsent = f :: rest → f = .clear ∨ f = .resetClear →
    ∀ owed : Bool, owed = ((s.br b).clearOwed && (rest.contains .clear || rest.contains .resetClear)) →
    ((s.br b).config.autoEnumerate = true → (s.br b).enumeration = .idle →
      exec (.branchClearSent b) s = .next (s.setBr b { s.br b with
        clearOwed := owed
        outcome := .none
        chain := { (s.br b).chain with enumerations := (s.br b).chain.enumerations + 1 }
        enumeration := .running .identify (s.now + Config.identifyTimer)
        unsent := rest ++ [.identify] })) ∧
    ((s.br b).config.autoEnumerate = false ∨ (s.br b).enumeration ≠ .idle →
      exec (.branchClearSent b) s = .next (s.setBr b { s.br b with clearOwed := owed, unsent := rest }))

/-- DRAIN_COMPLETE on a DRAINING branch with an empty queue and no WAITING entry: the branch is DORMANT, HUSH is handed behind
what waits, every ORPHANED entry of it is FREE and counted as abandoned, and the sleep is counted. In every other state
the judgement changes nothing (R79, R129, R130). -/
def Obligations.DrainCompletesWhenNothingWaits : Prop :=
  ∀ (b : Branch) (s : State),
    ((s.br b).state = .draining → (s.br b).queue = [] → s.hasWaiting b = false → (s.br b).port.link = .up →
      ∃ t, exec (.drainComplete b) s = .next t ∧
        t.br b = { s.br b with
          state := .dormant
          controller := { (s.br b).controller with sleeps := (s.br b).controller.sleeps + 1 }
          unsent := (s.br b).unsent ++ [.hush] } ∧
        (∀ c : Branch, c ≠ b → t.br c = s.br c) ∧
        (∀ e : EntryIx, t.entry e = if (s.entry e).onBranch b then .free else s.entry e) ∧
        t = { s with
          branches := t.branches
          entries := t.entries
          tracker := { s.tracker with
            abandoned := s.tracker.abandoned + BitVec.ofNat 32 (s.orphanCount b) } }) ∧
    ((s.br b).state ≠ .draining ∨ (s.br b).queue ≠ [] ∨ s.hasWaiting b = true →
      exec (.drainComplete b) s = .next s)

/-- WAKE_TIMER_EXPIRY on a WAKING branch: FAILED with the link OFF; queued and then pending requests are answered LOST, the
entries are FREE, the known records LOST and their notices gone, the failure is counted and WAKE raised. Clear-owed and
the wake latch are kept, and so are the other notices, in their order. Where an age or reply deadline comes before the timer's
time, nothing happens yet (R56, R58, R77, R81, R116, R138, R153, R160, R161; what the port still held before a HUSH is discarded
by assumption 10, the order of the deadlines is assumption 1, and the place of an ATTENTION frame among the REPLYs is free by
assumption 3). -/
def Obligations.WakeTimeoutFailsTheBranch : Prop :=
  ∀ (b : Branch) (d : Time) (s : State), (s.br b).state = .waking d →
    (s.reaches d = false → exec (.wakeTimerExpiry b) s = .next s) ∧ (s.reaches d = true →
    ∃ t, exec (.wakeTimerExpiry b) s = .next t ∧
      t.br b = { s.br b with
        state := .failed
        controller := { (s.br b).controller with wakeFailures := (s.br b).controller.wakeFailures + 1 }
        queue := []
        forwarder := { (s.br b).forwarder with
          flushed := (s.br b).forwarder.flushed + BitVec.ofNat 32 (s.br b).queue.length }
        records := mapTable (fun _ r => r.lose) (s.br b).records
        port := { (s.br b).port with link := .off, badRun := 0, attemptTimer := none, relistenTimer := none }
        credit := 0
        unsent := [] } ∧
      (∀ c : Branch, c ≠ b → t.br c = s.br c) ∧
      (∀ e : EntryIx, t.entry e = if (s.entry e).onBranch b then .free else s.entry e) ∧
      t.replies = s.replies ++ repliesOf (s.queueTags b ++ s.waitingTags b fun _ => true) .lost ∧
      t.tagReg = s.tagReg.filter (fun g => !(s.queueTags b ++ s.waitingTags b fun _ => true).contains g) ∧
      t.reservations = s.reservations - (s.queueTags b ++ s.waitingTags b fun _ => true).length ∧
      t.tracker = { s.tracker with
        cut := s.tracker.cut + BitVec.ofNat 32 (s.waitingTags b fun _ => true).length
        abandoned := s.tracker.abandoned + BitVec.ofNat 32 (s.orphanCount b) } ∧
      t.selfCauses = s.selfCauses ||| (Cause.wake b).toSet ∧
      (∀ p : Position, (s.record b p).losable = true → t.hasNotice (.attachment b p) = false) ∧
      State.NotesEvent { s with now := max s.now d } t [.wake b] (Source.isOf b fun p => (s.record b p).losable) ∧
      t = { s with
        now := max s.now d
        u := t.u
        upstream := t.upstream
        tagReg := t.tagReg
        egress := t.egress
        reservations := t.reservations
        entries := t.entries
        tracker := t.tracker
        branches := t.branches
        notices := t.notices
        rePresentTimer := t.rePresentTimer
        presentationOwed := t.presentationOwed
        noticeUnit := t.noticeUnit
        choices := t.choices })

/-! ### The classifier -/

/-- CLASSIFIER_TAKE with no frame at the head, with a held request, or with a tagged head that finds reservations and reply
frames filling the 64 reply slots: nothing is taken and nothing changes. With a tagged head whose tag is in the tag
register: it is discarded without a reply, counted, its place is owed, and TAGCLASH is raised; the tag register and the
reservations stand as they were (R24, R25, R26, R32). -/
def Obligations.HeadWaitsOrClashes : Prop :=
  ∀ s : State,
    ((s.ingress = [] ∨ s.held = true ∨
        ∃ r rest k t, s.ingress = r :: rest ∧ r.hdr = .tagged k t ∧ 64 ≤ s.reservations + s.replyFrames) →
      exec .classifierTake s = .next s) ∧
    ∀ (r : Request) (rest : List Request) (k : TaggedKind) (t : UTag),
      s.held = false → s.ingress = r :: rest → r.hdr = .tagged k t → t ∈ s.tagReg →
      s.reservations + s.replyFrames < 64 →
      exec .classifierTake s = .next (State.raise .tagclash { s.headGone with
        classifier := { s.classifier with tagClash := s.classifier.tagClash + 1 } })

/-- CLASSIFIER_TAKE of a head refused by the checks up to the window lookup: MALFORMED; NOROUTE while UNASSIGNED, outside the
span, or where no window holds the start; BOUNDS for a management request that runs past the block. The refusal is
counted; a tagged request is answered and a POST dropped (R3, R25, R28 to R32, R34, R39). -/
def Obligations.HeadRefusedBeforeAnyWindow : Prop :=
  ∀ (s : State) (r : Request), s.mayTake r →
    (r.isMalformed →
      exec .classifierTake s = .next (State.refusedAtTake r.hdr .malformed { s.headGone with
        classifier := { s.classifier with malformed := s.classifier.malformed + 1 } })) ∧
    (¬r.isMalformed → (s.member = none ∨ ∃ base, s.member = some base ∧
        (r.addr.toNat < base.toNat ∨ base.toNat + 2 ^ s.spanExp ≤ r.addr.toNat)) →
      exec .classifierTake s = .next (State.refusedAtTake r.hdr .noroute { s.headGone with
        classifier := { s.classifier with noroute := s.classifier.noroute + 1 } })) ∧
    (∀ off, s.startsAt r off → off < 4096 → 4096 ≤ off + 4 * r.count.toNat - 1 →
      exec .classifierTake s = .next (State.refusedAtTake r.hdr .bounds { s.headGone with
        classifier := { s.classifier with bounds := s.classifier.bounds + 1 } })) ∧
    ∀ off, s.startsAt r off → 4096 ≤ off → (∀ i : WindowIx, (s.windows[i]).contains off = false) →
      exec .classifierTake s = .next (State.refusedAtTake r.hdr .noroute { s.headGone with
        classifier := { s.classifier with noroute := s.classifier.noroute + 1 } })

/-- CLASSIFIER_TAKE of a head that starts in a window, the lowest-numbered valid one that contains its start: DENIED where its
rights lack the kind, BOUNDS where the request runs past it, LOST where its branch is DOWN or FAILED (which keeps no
counter), ABSENT where no ASSIGNED record of the branch holds the translated range, BUSY where the branch's queue is full
(R5, R10, R11, R12, R34 to R37, R39). -/
def Obligations.HeadRefusedAtItsWindow : Prop :=
  ∀ (s : State) (r : Request) (off : Nat) (i : WindowIx), s.mayTake r →
    (s.startsAt r off → 4096 ≤ off → s.isMatch off i → (s.windows[i]).rights.admits r.hdr = false →
      exec .classifierTake s = .next (State.refusedAtTake r.hdr .denied { s.headGone with
        classifier := { s.classifier with denied := s.classifier.denied + 1 } })) ∧
    (s.startsAt r off → 4096 ≤ off → s.isMatch off i → (s.windows[i]).rights.admits r.hdr = true →
      (s.windows[i]).offset.toNat + 2 ^ (s.windows[i]).sizeExp.toNat ≤ off + 4 * r.count.toNat - 1 →
      exec .classifierTake s = .next (State.refusedAtTake r.hdr .bounds { s.headGone with
        classifier := { s.classifier with bounds := s.classifier.bounds + 1 } })) ∧
    (s.fitsWindow r off i →
      ∀ u : BranchUnit, u = s.br (s.windows[i]).branch →
      (u.state = .down ∨ u.state = .failed →
        exec .classifierTake s = .next (State.refusedAtTake r.hdr .lost s.headGone)) ∧
      (u.state ≠ .down → u.state ≠ .failed →
        ((∀ p : Position, (u.records[p]).admits (s.translated off i) r.count.toNat = false) →
          exec .classifierTake s = .next (State.refusedAtTake r.hdr .absent { s.headGone with
            classifier := { s.classifier with absent := s.classifier.absent + 1 } })) ∧
        ((∃ p : Position, (u.records[p]).admits (s.translated off i) r.count.toNat = true) →
          8 ≤ u.queue.length →
          exec .classifierTake s = .next (State.refusedAtTake r.hdr .busy { s.headGone with
            classifier := { s.classifier with busy := s.classifier.busy + 1 } }))))

/-- CLASSIFIER_TAKE of a management request that lies in the block, of any kind: it is accepted, and joins the management
unit's input queue, its place in the buffer owed; with the queue full it stays at the head, held, and no credit is owed
(R3, R27, R32, R39). -/
def Obligations.ManagementRequestJoinsOrIsHeld : Prop :=
  ∀ (s : State) (r : Request) (off : Nat), s.mayTake r → s.startsAt r off → off + 4 * r.count.toNat ≤ 4096 →
    ∀ a : State, a = { s with
      tagReg := s.tagReg ++ hdrTags r.hdr, reservations := s.reservations + (hdrTags r.hdr).length } →
    (s.mgmtQueue.length < 2 →
      exec .classifierTake s = .next { a.headGone with
        mgmtQueue := s.mgmtQueue ++ [{ hdr := r.hdr, offset := off, count := r.count.toNat, data := r.data }] }) ∧
    (2 ≤ s.mgmtQueue.length → exec .classifierTake s = .next { a with held := true })

/-- CLASSIFIER_TAKE of a head that passes every check: it is accepted and joins the tail of its branch's forward queue as the
slot of R38, its window entry counts it, and its place in the buffer is owed. A DORMANT branch is woken on demand: WAKING,
its wake timer started, the wake counted, and its port training, unless the port is still sending up to a HUSH. The
wake latch is not touched, and no other branch changes (R9, R14, R27, R36, R38, R39, R133, R136, R195). -/
def Obligations.HeadJoinsForwardQueue : Prop :=
  ∀ (s : State) (r : Request) (off : Nat) (i : WindowIx) (p : Position), s.mayTake r → s.fitsWindow r off i →
    s.resetPin = false →
    ∀ b : Branch, b = (s.windows[i]).branch →
    (s.br b).state ≠ .down → (s.br b).state ≠ .failed → (s.br b).queue.length < 8 →
    ((s.br b).records[p]).admits (s.translated off i) r.count.toNat = true →
    (∀ q : Position, q < p → ((s.br b).records[q]).admits (s.translated off i) r.count.toNat = false) →
    ∀ u : BranchUnit, u = { s.br b with queue := (s.br b).queue ++
      [{ hdr := r.hdr
         addr := BitVec.ofNat 32 (s.translated off i)
         count := r.count.toNat
         data := r.data
         position := p
         window := i
         ageDeadline := s.now + (s.br b).config.replyTimeout * Config.replyTimeoutUnit }] } →
    exec .classifierTake s =
      .next (State.setBr { s.headGone with
        tagReg := s.tagReg ++ hdrTags r.hdr
        reservations := s.reservations + (hdrTags r.hdr).length
        windows := s.windows.set i.val { s.windows[i] with hits := (s.windows[i]).hits + 1 } i.isLt } b
        (if u.state = .dormant then
          { u with
            state := .waking (s.now + Config.wakeTimer)
            controller := { u.controller with wakes := u.controller.wakes + 1 }
            port := if u.port.link = .up then u.port else { u.port with
              link := .training
              badRun := 0
              attemptTimer := some (s.now + Config.trainingAttempt)
              relistenTimer := none }
            credit := if u.port.link = .up then u.credit else 0 }
        else u))

/-- The translated range of a request that passes the window checks lies wholly within the 2^k bytes from the window's target, so
translation never wraps past 2^32, whenever the window table keeps its law (R12). -/
def Obligations.TranslationStaysBehindTheWindow : Prop :=
  ∀ (s : State) (r : Request) (off : Nat) (i : WindowIx), s.WindowLaw → s.fitsWindow r off i →
    (s.windows[i]).target.toNat ≤ s.translated off i ∧
      s.translated off i + 4 * r.count.toNat ≤ (s.windows[i]).target.toNat + 2 ^ (s.windows[i]).sizeExp.toNat ∧
      (s.windows[i]).target.toNat + 2 ^ (s.windows[i]).sizeExp.toNat ≤ 2 ^ 32

/-! ### The forwarder -/

/-- ISSUE with an empty queue, or with a head for which a condition of R44 fails: the head waits and nothing changes (R44, R52,
R83). -/
def Obligations.HeadOfForwardQueueWaits : Prop :=
  ∀ (b : Branch) (s : State), ((s.br b).queue = [] ∨ ∃ q rest, (s.br b).queue = q :: rest ∧ ¬s.issuable b q) →
    exec (.issue b) s = .next s

/-- ISSUE of a tagged head that meets the conditions and passes the recheck: the lowest branch tag free on the branch and the
lowest FREE entry are taken, the entry is WAITING with a deadline reckoned from the present reply timeout, the frame is
handed behind what waits, one credit is spent, the slot leaves and the issue is counted (R44, R46, R48, R50, R64). -/
def Obligations.TaggedHeadIsIssued : Prop :=
  ∀ (b : Branch) (s : State) (q : Slot) (rest : List Slot) (k : TaggedKind) (ut : UTag) (t : BTag) (e : EntryIx),
    (s.br b).queue = q :: rest → q.hdr = .tagged k ut → s.issuable b q → s.isLowestFreeTag b t →
    s.isLowestFreeEntry e → ((s.br b).records[q.position]).admits q.addr.toNat q.count = true →
    exec (.issue b) s =
      .next ((s.setEntry e (.waiting { branch := b, tag := t, kind := k, position := q.position, count := q.count } ut
        (s.now + (s.br b).config.replyTimeout * Config.replyTimeoutUnit))).setBr b
          { s.br b with
            queue := rest
            credit := (s.br b).credit - 1
            forwarder := { (s.br b).forwarder with issued := (s.br b).forwarder.issued + 1 }
            unsent := (s.br b).unsent ++ [.tagged k t q.addr q.count q.data] })

/-- ISSUE of a head that meets the conditions. A POST that passes the recheck is handed as a frame, one credit spent and the
issue counted, with no entry or tag taken. A head that fails the recheck leaves the queue, is counted, and is answered ABSENT
if tagged, or dropped; no tag, entry or credit is taken and nothing is sent. Either may be what a drain waited for, so the
drain is judged (R46, R47, R49, R50, R129). -/
def Obligations.PostIsIssuedAndRecheckRefuses : Prop :=
  ∀ (b : Branch) (s : State) (q : Slot) (rest : List Slot), (s.br b).queue = q :: rest → s.issuable b q →
    (q.hdr = .post → ((s.br b).records[q.position]).admits q.addr.toNat q.count = true →
      exec (.issue b) s = .next (State.judgeDrain b (s.setBr b
        { s.br b with
          queue := rest
          credit := (s.br b).credit - 1
          forwarder := { (s.br b).forwarder with issued := (s.br b).forwarder.issued + 1 }
          unsent := (s.br b).unsent ++ [.post q.addr q.count q.data] }))) ∧
    (((s.br b).records[q.position]).admits q.addr.toNat q.count = false →
      exec (.issue b) s = .next (State.judgeDrain b (State.answer q.hdr .absent (s.setBr b
        { s.br b with
          queue := rest
          forwarder := { (s.br b).forwarder with recheck := (s.br b).forwarder.recheck + 1 } }))))

/-- AGE_DEADLINE_EXPIRY: the earliest age deadline of the queue runs out. Every slot whose deadline has then passed leaves,
wherever it stands, and the others keep their order; the tagged ones are answered TIMEOUT in queue order, the POSTs dropped,
all are counted, and the drain is judged. The egress queue takes those REPLYs and nothing else, and where it takes one a QUIET U
is woken and trains. Where another branch's age deadline or a reply deadline comes first, nothing happens yet (R53, R54, R129,
R176, R179; the order of the deadlines is assumption 1). -/
def Obligations.AgedSlotsAreAnsweredTimeout : Prop :=
  ∀ (b : Branch) (s : State) (d : Time),
    (∃ q ∈ (s.br b).queue, q.ageDeadline = d) → (∀ q ∈ (s.br b).queue, d ≤ q.ageDeadline) →
    (s.reaches d = false → exec (.ageDeadlineExpiry b) s = .next s) ∧ (s.reaches d = true →
    ∀ out : List Slot, out = (s.br b).queue.filter (fun q => decide (q.ageDeadline ≤ max s.now d)) →
    ∃ t, exec (.ageDeadlineExpiry b) s = .next (State.judgeDrain b t) ∧
      t.egress = s.egress ++ repliesOf (out.flatMap fun q => hdrTags q.hdr) .timeout ∧
      t.tagReg = s.tagReg.filter (fun g => !(out.flatMap fun q => hdrTags q.hdr).contains g) ∧
      t.reservations = s.reservations - (out.flatMap fun q => hdrTags q.hdr).length ∧
      (s.u.port.link = .quiet → (out.flatMap fun q => hdrTags q.hdr) ≠ [] →
        t.u = { s.u with port := State.trained { s with now := max s.now d } s.u.port } ∧
          t.upstream = { s.upstream with wakes := s.upstream.wakes + 1 }) ∧
      (s.u.port.link ≠ .quiet ∨ (out.flatMap fun q => hdrTags q.hdr) = [] → t.u = s.u ∧ t.upstream = s.upstream) ∧
      t = { s.setBr b { s.br b with
          queue := (s.br b).queue.filter fun q => decide (max s.now d < q.ageDeadline)
          forwarder := { (s.br b).forwarder with aged := (s.br b).forwarder.aged + BitVec.ofNat 32 out.length } } with
        now := max s.now d
        tagReg := t.tagReg
        reservations := t.reservations
        egress := t.egress
        u := t.u
        upstream := t.upstream })

/-! ### The tracker -/

/-- REPLY on a branch whose link is UP or QUIET. Matched to a WAITING entry: the entry is FREE, a REPLY is placed upward under its
upstream tag, as it came where it is well formed by R66, else BADREPLY with detail 0 and no data, counted, and the drain is
judged. Matched to an ORPHANED entry: it is late, counted, and the entry is FREE. Under a tag that no entry of the branch
holds: it is stray and only counted. Late and stray replies place nothing upward. A REPLY of more than 16 data words is longer than
any frame allows, and so a bad one (R65 to R69, R129, R187, R190, R215). -/
def Obligations.ReplyIsMatchedLateOrStray : Prop :=
  ∀ (b : Branch) (tag : UTag) (status detail : Byte) (data : List Word) (s : State),
    (16 < data.length → exec (.reply b tag status detail data) s = exec (.badFrame (.branch b)) s) ∧
    (data.length ≤ 16 → (s.br b).takesFrames = true → s.BranchTagLaw →
    (∀ (e : EntryIx) (c : Carried) (ut : UTag) (d : Time), s.entry e = .waiting c ut d → c.branch = b →
      c.tag.toNat = tag.toNat →
      ∀ a : State, a = (s.goodFrameOn b).setEntry e .free →
      ∀ need : Status → Nat, (need = fun st =>
        if st = .ok then (match c.kind with | .read => c.count | .write => 0 | .swap => 1) else 0) →
      (∀ st : Status, st.code = status.toNat → data.length = need st →
        exec (.reply b tag status detail data) s = .next (State.judgeDrain b (a.placeReply ut st detail data))) ∧
      ((∀ st : Status, st.code = status.toNat → data.length ≠ need st) →
        exec (.reply b tag status detail data) s =
          .next (State.judgeDrain b (State.placeReply ut .badreply 0 []
            { a with tracker := { s.tracker with badreply := s.tracker.badreply + 1 } })))) ∧
    (∀ (e : EntryIx) (c : Carried) (d : Time) (st : Status), s.entry e = .orphaned c d st → c.branch = b →
      c.tag.toNat = tag.toNat →
      exec (.reply b tag status detail data) s =
        .next { (s.goodFrameOn b).setEntry e .free with
          tracker := { s.tracker with late := s.tracker.late + 1 } }) ∧
    ((∀ t ∈ s.heldBranchTags b, t.toNat ≠ tag.toNat) →
      exec (.reply b tag status detail data) s =
        .next { s.goodFrameOn b with tracker := { s.tracker with stray := s.tracker.stray + 1 } }))

/-- REPLY_DEADLINE_EXPIRY of a WAITING entry: TIMEOUT is placed upward, the entry is ORPHANED with that reported status and an
orphan deadline reckoned from the present orphan hold, keeping its branch tag, the timeout is counted and the drain judged.
ORPHAN_DEADLINE_EXPIRY of an ORPHANED entry: it is FREE and counted as abandoned, and nothing else happens. Where an age or reply
deadline comes before the deadline, nothing happens yet (R70, R71, R72; the order of the deadlines is assumption 1). -/
def Obligations.DeadlinesOfAPendingEntry : Prop :=
  ∀ (e : EntryIx) (c : Carried) (d : Time) (s : State),
    (∀ ut, s.entry e = .waiting c ut d →
      (s.reaches d = false → exec (.replyDeadlineExpiry e) s = .next s) ∧
      (s.reaches d = true → exec (.replyDeadlineExpiry e) s =
        .next (State.judgeDrain c.branch (State.placeReply ut .timeout 0 []
          { s.setEntry e (.orphaned c
              (max s.now d + (s.br c.branch).config.orphanHold * Config.orphanHoldUnit) .timeout) with
            now := max s.now d
            tracker := { s.tracker with timeout := s.tracker.timeout + 1 } })))) ∧
    ∀ st, s.entry e = .orphaned c d st →
      (s.reaches d = false → exec (.orphanDeadlineExpiry e) s = .next s) ∧
      (s.reaches d = true → exec (.orphanDeadlineExpiry e) s =
        .next { s.setEntry e .free with
          now := max s.now d
          tracker := { s.tracker with abandoned := s.tracker.abandoned + 1 } })

/-- Placing a REPLY takes the place of the request's reservation: the frame goes to the tail of the egress queue, the tag leaves
the register and the reservations fall by one; on a QUIET U link it also signals wake, which is counted, and U trains. Nothing
else changes (R23, R24, R67, R176, R179). -/
def Obligations.PlacingAReply : Prop :=
  ∀ (ut : UTag) (st : Status) (detail : Byte) (data : List Word) (s : State), s.resetPin = false →
    ∀ a : State, a = { s with
      egress := s.egress ++ [.reply { tag := ut, status := st, detail := detail, data := data }]
      tagReg := s.tagReg.filter (· ≠ ut)
      reservations := s.reservations - 1 } →
    (s.u.port.link ≠ .quiet → s.placeReply ut st detail data = a) ∧
    (s.u.port.link = .quiet → s.placeReply ut st detail data = { a with
      u := { s.u with port := { s.u.port with
        link := .training
        badRun := 0
        attemptTimer := some (s.now + Config.trainingAttempt)
        relistenTimer := none } }
      upstream := { s.upstream with wakes := s.upstream.wakes + 1 } })

/-! ### The chain controller -/

/-- DESCRIPTOR, ASSIGNED and EMPTY that are not awaited, on a branch whose link is UP or QUIET: each is only counted as unexpected.
A DESCRIPTOR awaited from beyond the eighth position ends the enumeration TOO_MANY, and one from an ASSIGNED position ends
it CONFLICT with the record unchanged. EMPTY awaited ends it DONE, whatever its hop count (R101, R104, R106, R107, R190). -/
def Obligations.FramesThatEndOrMissAStep : Prop :=
  ∀ (b : Branch) (cls : BitVec 16) (identity : Word) (k : Byte) (flags : MemberFlags) (hop : Byte) (s : State),
    (s.br b).takesFrames = true →
    ∀ g : State, g = s.goodFrameOn b →
    ∀ unexpected : State, unexpected = g.setBr b { g.br b with
      chain := { (g.br b).chain with unexpected := (g.br b).chain.unexpected + 1 } } →
    ∀ ended : EnumOutcome → State, (ended = fun o =>
      State.raise (.enum b) (g.setBr b { g.br b with enumeration := .idle, outcome := o })) →
    (((s.br b).enumeration = .idle ∨ (∃ p d, (s.br b).enumeration = .running (.assign p) d)) →
      exec (.descriptor b cls identity k flags hop) s = .next unexpected ∧
      exec (.empty b hop) s = .next unexpected) ∧
    (((s.br b).enumeration = .idle ∨ (∃ d, (s.br b).enumeration = .running .identify d)) →
      exec (.assigned b hop) s = .next unexpected) ∧
    ∀ d, (s.br b).enumeration = .running .identify d →
      exec (.empty b hop) s = .next (ended .done) ∧
      (7 < hop.toNat → exec (.descriptor b cls identity k flags hop) s = .next (ended .tooMany)) ∧
      ∀ p : Position, hop.toNat = p.val → (∃ m base, s.record b p = .assigned m base) →
        exec (.descriptor b cls identity k flags hop) s = .next (ended .conflict)

/-- DESCRIPTOR awaited from a position whose record is VACANT, UNPLACED or LOST. A LOST record of the same identity and size
exponent that holds a range gives it back without a search, and the reclaim is counted. Otherwise the member is placed
at the lowest candidate that ends in the pool and shares no address with a range held at another position; with no such
candidate the record is UNPLACED and the enumeration ends POOL_EXHAUSTED. Where a range is given, the record is IDENTIFIED,
ASSIGN with its base is handed, the identify timer restarts, and the assign phase works at that position (R95, R96, R102,
R106). -/
def Obligations.DescriptorIsReclaimedOrPlacedLowest : Prop :=
  ∀ (b : Branch) (m : Member) (hop : Byte) (p : Position) (d : Time) (s : State),
    (s.br b).port.link = .up → (s.br b).enumeration = .running .identify d → hop.toNat = p.val →
    (s.record b p).isAssigned = false → (s.record b p).isIdentified = false →
    ∀ g : State, g = s.goodFrameOn b →
    ∀ given : Word → BranchUnit, (given = fun base => { g.br b with
      records := (g.br b).records.set p.val (.identified m base) p.isLt
      enumeration := .running (.assign p) (s.now + Config.identifyTimer)
      unsent := (g.br b).unsent ++ [.assign base] }) →
    (∀ base, (s.record b p).reclaims m base →
      exec (.descriptor b m.cls m.identity m.sizeExp m.flags hop) s =
        .next (g.setBr b { given base with
          chain := { (g.br b).chain with reclaimed := (g.br b).chain.reclaimed + 1 } })) ∧
    ((∀ base, ¬(s.record b p).reclaims m base) →
      ∀ k : Nat, k = m.sizeExp.toNat →
      (∀ j, (s.br b).fitsPool k j → (s.br b).isClear p k j → (∀ j', j' < j → ¬(s.br b).isClear p k j') →
        exec (.descriptor b m.cls m.identity m.sizeExp m.flags hop) s =
          .next (g.setBr b (given (BitVec.ofNat 32 ((s.br b).candidate k j))))) ∧
      ((∀ j, (s.br b).fitsPool k j → ¬(s.br b).isClear p k j) →
        exec (.descriptor b m.cls m.identity m.sizeExp m.flags hop) s =
          .next (State.raise (.enum b) (g.setBr b { g.br b with
            records := (g.br b).records.set p.val (.unplaced m) p.isLt
            enumeration := .idle
            outcome := .poolExhausted }))))

/-- ASSIGNED awaited, and the running out of the identify timer. An ASSIGNED from the working position makes its record ASSIGNED
with its range, is counted, and begins the next step: IDENTIFY is handed and the timer restarts. One from any other
position returns the record to VACANT and ends the enumeration CONFLICT. The timer ends it NO_ANSWER, and in the assign phase
returns the record to VACANT; where an age or reply deadline comes first, nothing happens yet (R100, R103, R105, R106; the order
of the deadlines is assumption 1). -/
def Obligations.AssignedCompletesTheStep : Prop :=
  ∀ (b : Branch) (s : State) (d : Time),
    (∀ (p : Position) (m : Member) (base : Word) (hop : Byte), (s.br b).port.link = .up →
      (s.br b).enumeration = .running (.assign p) d → s.record b p = .identified m base →
      ∀ g : State, g = s.goodFrameOn b →
      (hop.toNat = p.val →
        exec (.assigned b hop) s = .next (g.setBr b { g.br b with
          records := (g.br b).records.set p.val (.assigned m base) p.isLt
          chain := { (g.br b).chain with assigned := (g.br b).chain.assigned + 1 }
          enumeration := .running .identify (s.now + Config.identifyTimer)
          unsent := (g.br b).unsent ++ [.identify] })) ∧
      (hop.toNat ≠ p.val →
        exec (.assigned b hop) s = .next (State.raise (.enum b) (g.setBr b { g.br b with
          records := (g.br b).records.set p.val .vacant p.isLt
          enumeration := .idle
          outcome := .conflict })))) ∧
    (s.reaches d = false → (∃ phase, (s.br b).enumeration = .running phase d) →
      exec (.identifyTimerExpiry b) s = .next s) ∧
    ((s.br b).enumeration = .running .identify d → s.reaches d = true →
      exec (.identifyTimerExpiry b) s = .next (State.raise (.enum b)
        (State.setBr { s with now := max s.now d } b
          { s.br b with enumeration := .idle, outcome := .noAnswer }))) ∧
    ∀ p : Position, (s.br b).enumeration = .running (.assign p) d → s.reaches d = true →
      exec (.identifyTimerExpiry b) s = .next (State.raise (.enum b)
        (State.setBr { s with now := max s.now d } b
          { s.br b with
            records := (s.br b).records.set p.val .vacant p.isLt
            enumeration := .idle
            outcome := .noAnswer }))

/-- CHAINBREAK with hop count k on a branch whose link is UP or QUIET. Beyond k, ASSIGNED and UNPLACED records become LOST, and so
does the record of an assign phase there, whose enumeration ends ABORTED; WAITING entries there are answered LOST in
entry order and become ORPHANED with a deadline reckoned from the present orphan hold. The break is counted; CHAIN, and
ENUM where an enumeration ended, are raised; the notices of the records made LOST are gone, the other notices keep their
bodies and their order, and a new head is presented; the drain is judged. Nothing else changes (R75, R81, R112, R113, R129,
R153, R160, R161; the place of an ATTENTION frame among the REPLYs is free, assumption 3). -/
def Obligations.ChainBreakLosesWhatIsBeyond : Prop :=
  ∀ (b : Branch) (hop : Byte) (s : State), (s.br b).takesFrames = true →
    ∀ g : State, g = s.goodFrameOn b →
    ∀ tags : List UTag, tags = s.waitingTags b (fun p => decide (hop.toNat < p.val)) →
    ∀ ends : Bool, ends = ((s.br b).workingPosition.any fun p => decide (hop.toNat < p.val)) →
    ∃ t, exec (.chainbreak b hop) s = .next (State.judgeDrain b t) ∧
      t.br b = { g.br b with
        records := mapTable (fun p r => if hop.toNat < p.val then r.brokenOff (s.br b).workingPosition p else r)
          (s.br b).records
        enumeration := if ends then .idle else (s.br b).enumeration
        outcome := if ends then .aborted else (s.br b).outcome
        chain := { (s.br b).chain with breaks := (s.br b).chain.breaks + 1 } } ∧
      (∀ c : Branch, c ≠ b → t.br c = s.br c) ∧
      (∀ e : EntryIx, t.entry e =
        match s.entry e with
        | .waiting c ut d =>
          if c.branch = b ∧ hop.toNat < c.position.val then
            .orphaned c (s.now + (s.br b).config.orphanHold * Config.orphanHoldUnit) .lost
          else .waiting c ut d
        | .free => .free
        | .orphaned c d st => .orphaned c d st) ∧
      t.replies = s.replies ++ repliesOf tags .lost ∧
      t.tagReg = s.tagReg.filter (fun x => !tags.contains x) ∧
      t.reservations = s.reservations - tags.length ∧
      t.tracker = { s.tracker with cut := s.tracker.cut + BitVec.ofNat 32 tags.length } ∧
      t.selfCauses = s.selfCauses ||| (Cause.chain b).toSet ||| (if ends then (Cause.enum b).toSet else 0) ∧
      (∀ p : Position, hop.toNat < p.val → (s.record b p).isAssigned = true →
        t.hasNotice (.attachment b p) = false) ∧
      State.NotesEvent s t ([.chain b] ++ if ends then [.enum b] else [])
        (Source.isOf b fun p => decide (hop.toNat < p.val ∧
          (s.record b p).brokenOff (s.br b).workingPosition p ≠ s.record b p)) ∧
      t = { s with
        u := t.u
        upstream := t.upstream
        tagReg := t.tagReg
        egress := t.egress
        reservations := t.reservations
        entries := t.entries
        tracker := t.tracker
        branches := t.branches
        notices := t.notices
        rePresentTimer := t.rePresentTimer
        presentationOwed := t.presentationOwed
        noticeUnit := t.noticeUnit
        choices := t.choices }

/-- CHAINMEND: counted, and CHAIN raised; with auto-enumerate set, the branch ACTIVE and no enumeration running, one starts as
ENUMERATE starts one. No record changes (R98, R100, R114). -/
def Obligations.ChainMendMayStartEnumeration : Prop :=
  ∀ (b : Branch) (hop : Byte) (s : State), (s.br b).takesFrames = true →
    ∀ g r : State, g = s.goodFrameOn b →
    r = State.raise (.chain b) (g.setBr b { g.br b with
      chain := { (g.br b).chain with mends := (g.br b).chain.mends + 1 } }) →
    ((s.br b).config.autoEnumerate = true → (s.br b).state = .active → (s.br b).enumeration = .idle →
      exec (.chainmend b hop) s = .next (r.setBr b { r.br b with
        outcome := .none
        chain := { (r.br b).chain with enumerations := (r.br b).chain.enumerations + 1 }
        enumeration := .running .identify (s.now + Config.identifyTimer)
        unsent := (r.br b).unsent ++ (if (s.br b).port.link = .up then [.identify] else []) })) ∧
    ((s.br b).config.autoEnumerate = false ∨ (s.br b).state ≠ .active ∨ (s.br b).enumeration ≠ .idle →
      exec (.chainmend b hop) s = .next r)

/-! ### The notice unit -/

/-- ATTENTION on a branch whose link is UP or QUIET. From an ASSIGNED position without a notice, one joins the tail with the
frame's code and counts at 0, is counted, and is presented where the queue was empty. With a notice, its merge count rises,
up to 15, and nothing else of it changes. From any other position, or from beyond the eighth, it is only counted as
discarded (R147, R149, R150, R151). -/
def Obligations.AttentionJoinsMergesOrIsDiscarded : Prop :=
  ∀ (b : Branch) (code hop : Byte) (s : State), (s.br b).takesFrames = true →
    ∀ g : State, g = s.goodFrameOn b →
    (7 < hop.toNat ∨ (∃ p : Position, hop.toNat = p.val ∧ (s.record b p).isAssigned = false) →
      exec (.attention b code hop) s = .next { g with
        noticeUnit := { s.noticeUnit with discarded := s.noticeUnit.discarded + 1 } }) ∧
    ∀ p : Position, hop.toNat = p.val → (s.record b p).isAssigned = true →
      (s.hasNotice (.attachment b p) = true →
        exec (.attention b code hop) s = .next { g with
          notices := s.notices.map fun n =>
            if n.source = .attachment b p then { n with merges := min 15 (n.merges + 1) } else n
          noticeUnit := { s.noticeUnit with merged := s.noticeUnit.merged + 1 } }) ∧
      (s.hasNotice (.attachment b p) = false →
        ∀ j : State, j = { g with
          notices := s.notices ++ [{ body := .attachment b p code, merges := 0, presentations := 0 }]
          noticeUnit := { s.noticeUnit with joined := s.noticeUnit.joined + 1 } } →
        exec (.attention b code hop) s = .next (if s.notices = [] then j.presentationDue else j))

/-- Raising a self cause makes the self notice at the tail, counted as joined and presented where the queue was empty; where
there is one, the cause is added to it, its merge count rises, up to 15, and it keeps its place and presentations. In a cause
set bits 0 to 3 are LINK of B0 to B3, 4 to 7 ENUM, 8 to 11 CHAIN, 12 to 15 WAKE, and bit 16 is TAGCLASH (R153, R212). -/
def Obligations.RaisingASelfCause : Prop :=
  (∀ b : Branch, (Cause.link b).toSet = BitVec.ofNat 17 (2 ^ b.val) ∧
    (Cause.enum b).toSet = BitVec.ofNat 17 (2 ^ (4 + b.val)) ∧ (Cause.chain b).toSet = BitVec.ofNat 17 (2 ^ (8 + b.val)) ∧
    (Cause.wake b).toSet = BitVec.ofNat 17 (2 ^ (12 + b.val)) ∧ Cause.tagclash.toSet = BitVec.ofNat 17 (2 ^ 16)) ∧
  ∀ (c : Cause) (s : State),
    (s.hasNotice .self = false →
      ∀ j : State, j = { s with
        notices := s.notices ++ [{ body := .self c.toSet, merges := 0, presentations := 0 }]
        noticeUnit := { s.noticeUnit with joined := s.noticeUnit.joined + 1 } } →
      State.raise c s = if s.notices = [] then j.presentationDue else j) ∧
    (s.hasNotice .self = true →
      State.raise c s = { s with
        notices := s.notices.map fun n =>
          match n.body with
          | .self causes => { n with body := .self (causes ||| c.toSet), merges := min 15 (n.merges + 1) }
          | .attachment _ _ _ => n
        noticeUnit := { s.noticeUnit with merged := s.noticeUnit.merged + 1 } }) ∧
    (State.raise c s).selfCauses = s.selfCauses ||| c.toSet

/-- RE_PRESENT_TIMER_EXPIRY with a head in the queue: a presentation falls due. The timer is started for the interval standing
now. While the part is ASSIGNED with the notice slot empty, ATTENTION with the head's source number enters the egress queue,
the head's presentation count rises, up to 255, and the presentation is counted; with the slot full it is skipped and counted;
while the part is UNASSIGNED it is deferred and owed. Where an age or reply deadline comes first, nothing happens yet (R147, R154
to R157; that an interval of 0 leaves the timer not running is assumption 12, and the order of the deadlines assumption
1). -/
def Obligations.PresentationIsMadeSkippedOrDeferred : Prop :=
  ∀ (s : State) (h : Notice) (rest : List Notice) (d : Time), s.notices = h :: rest → s.rePresentTimer = some d →
    (s.reaches d = false → exec .rePresentTimerExpiry s = .next s) ∧ (s.reaches d = true →
    ∀ a : State, a = { s with
      now := max s.now d
      rePresentTimer := if s.interval = 0 then none else some (max s.now d + s.interval * 1000) } →
    (s.member = none → exec .rePresentTimerExpiry s = .next { a with presentationOwed := true }) ∧
    (s.member ≠ none → (∃ code, .attention code ∈ s.egress) →
      exec .rePresentTimerExpiry s =
        .next { a with noticeUnit := { s.noticeUnit with skipped := s.noticeUnit.skipped + 1 } }) ∧
    (s.member ≠ none → (∀ code, .attention code ∉ s.egress) →
      exec .rePresentTimerExpiry s = .next (State.placeEgress
        (.attention (match h.source with
          | .self => 0
          | .attachment b p => BitVec.ofNat 8 (1 + 8 * b.val + p.val)))
        { a with
          notices := { h with presentations := min 255 (h.presentations + 1) } :: rest
          noticeUnit := { s.noticeUnit with presented := s.noticeUnit.presented + 1 } })))

/-! ### The management unit -/

/-- MANAGEMENT_READ: the head of the input queue is answered OK with its count of words, each as it stands, and the read is
counted. The word of the reads counter shows the count before or after this READ. For every execution of the unit: at the
removal of the head a held request that is still a management request, and finds a place, joins the input queue; it leaves the
ingress buffer and its place is owed. With none held only the head leaves (R25, R32, R33, R202, R204; the order in that one word
is free, assumption 4, and the frame that U has begun is recorded, assumption 14). -/
def Obligations.ManagementReadReturnsTheWords : Prop :=
  (∀ (s : State) (t : UTag) (offset count : Nat) (data : List Word),
    s.mgmtQueue.head? = some { hdr := .tagged .read t, offset := offset, count := count, data := data } →
    ∀ v : State, v = s.afterHeadLeaves →
    ∃ words : List Word, words.length = count ∧
      (∀ i, i < count → (offset + 4 * i) / 4 ≠ 0x748 / 4 → words[i]? = some (v.readWord (offset + 4 * i))) ∧
      (∀ i, i < count → (offset + 4 * i) / 4 = 0x748 / 4 →
        words[i]? = some v.mgmt.reads ∨ words[i]? = some (v.mgmt.reads + 1)) ∧
      exec .managementRead s =
        .next (State.placeReply t .ok 0 words { v with mgmt := { v.mgmt with reads := v.mgmt.reads + 1 } })) ∧
  ∀ s g : State, g = { s with mgmtQueue := s.mgmtQueue.tail } →
    (s.held = false → s.afterHeadLeaves = g) ∧
    ∀ (r : Request) (rest : List Request) (off : Nat), s.held = true → s.ingress = r :: rest → s.startsAt r off →
      off + 4 * r.count.toNat ≤ 4096 → s.mgmtQueue.tail.length < 2 →
      s.afterHeadLeaves = { g with
        held := false
        ingress := rest
        u := { s.uBegun with owed := s.u.owed + 1 }
        mgmtQueue := s.mgmtQueue.tail ++ [{ hdr := r.hdr, offset := off, count := r.count.toNat, data := r.data }] }

/-- What the words of the management block read as, each field cut to its width: the general words, the two parts of a branch's
record, a window entry, an attachment record in each state, a pending entry in each state, the notice queue view, the
counters, and zero where R203 maps nothing, in a command word, in a field that is absent and beyond the notices (R86, R120, R164,
R203, R204, R212, R213, R215). -/
def Obligations.WordsOfTheBlock : Prop :=
  ∀ s : State, s.UpstreamLaw → s.BranchesLawful →
    s.readWord 0x000 = s.identity ∧
    s.readWord 0x004 = BitVec.ofNat 32 (0x0C24 + 65536 * s.spanExp + 0x7000000) ∧
    s.readWord 0x008 = BitVec.ofNat 32
      (s.spanExp + (if s.member = none then 0 else 256) + 65536 * s.u.port.link.code) ∧
    s.readWord 0x00C = s.member.getD 0 ∧
    s.readWord 0x010 = BitVec.ofNat 32
      (s.reservations % 128 + 256 * (s.replyFrames % 128) +
        (if s.egress.countP (fun f => !f.isReply) = 0 then 0 else 65536)) ∧
    s.readWord 0x014 = BitVec.ofNat 32 s.interval ∧ s.readWord 0x018 = 0 ∧
    (∀ (i : Nat) (w : Word),
      [s.upstream.overrun, s.upstream.clears, s.upstream.linkLosses, s.upstream.assigns, s.upstream.releases,
        s.upstream.ignored, s.upstream.unexpected, s.upstream.wakes][i]? = some w → s.readWord (0x01C + 4 * i) = w) ∧
    (∀ b : Branch, ∀ u : BranchUnit, u = s.br b →
      s.readWord (0x040 + 48 * b.val) = BitVec.ofNat 32
        (u.state.code + (if u.enumeration = .idle then 0 else 16) + 256 * u.outcome.code
          + (if u.wakeLatch then 4096 else 0) + (if u.clearOwed then 8192 else 0) + 65536 * u.port.link.code) ∧
      s.readWord (0x044 + 48 * b.val) = BitVec.ofNat 32
        (u.queue.length % 16 + 256 * (match u.queue with | [] => 0 | q :: _ => q.window.val)
          + 65536 * (s.entryCount b % 32) + 0x1000000 * u.credit) ∧
      s.readWord (0x048 + 48 * b.val) = u.config.poolBase ∧
      s.readWord (0x04C + 48 * b.val) = BitVec.ofNat 32
        (u.config.poolExp + 256 * u.config.limit + (if u.config.autoEnumerate then 65536 else 0)) ∧
      s.readWord (0x050 + 48 * b.val) = BitVec.ofNat 32
        (u.config.replyTimeout + 65536 * u.config.orphanHold) ∧
      s.readWord (0x054 + 48 * b.val) = 0 ∧
      (∀ (i : Nat) (w : Word),
        [u.controller.linkLosses, u.controller.sleeps, u.controller.wakes, u.controller.wakeFailures,
          u.controller.wakesRefused][i]? = some w → s.readWord (0x058 + 48 * b.val + 4 * i) = w) ∧
      (∀ (i : Nat) (w : Word),
        [u.forwarder.issued, u.forwarder.recheck, u.forwarder.aged, u.forwarder.flushed, u.chain.enumerations,
          u.chain.assigned, u.chain.reclaimed, u.chain.breaks, u.chain.mends, u.chain.unexpected,
          u.port.counters.badFrames, u.port.counters.discarded, u.port.counters.trainingAttempts,
          u.port.counters.creditOverflow][i]? = some w → s.readWord (0x800 + 64 * b.val + 4 * i) = w) ∧
      s.readWord (0x06C + 48 * b.val) = 0 ∧ s.readWord (0x838 + 64 * b.val) = 0 ∧ s.readWord (0x83C + 64 * b.val) = 0 ∧
      ∀ p : Position, ∀ r : Record, r = s.record b p → ∀ o : Nat, o = 0x300 + 128 * b.val + 16 * p.val →
        (r = .vacant → ∀ j, j < 4 → s.readWord (o + 4 * j) = 0) ∧
        ∀ (m : Member) (range : Option Word) (n : Nat),
          ((n = 1 ∧ ∃ base, r = .identified m base ∧ range = some base) ∨ (n = 2 ∧ r = .unplaced m ∧ range = none) ∨
            (n = 3 ∧ ∃ base, r = .assigned m base ∧ range = some base) ∨ (n = 4 ∧ r = .lost m range)) →
          s.readWord o = BitVec.ofNat 32 (n + (if range = none then 0 else 256) + 65536 * (m.sizeExp.toNat % 32)
            + (if m.flags.attentionCapable then 0x1000000 else 0) + (if m.flags.sleepCapable then 0x2000000 else 0)
            + (if m.flags.concentrator then 0x4000000 else 0)) ∧
          s.readWord (o + 4) = BitVec.ofNat 32 m.cls.toNat ∧ s.readWord (o + 8) = m.identity ∧
            s.readWord (o + 12) = range.getD 0) ∧
    (∀ i : WindowIx, ∀ w : Window, w = s.windows[i] →
      s.readWord (0x100 + 16 * i.val) = w.offset ∧ s.readWord (0x104 + 16 * i.val) = w.target ∧
        s.readWord (0x108 + 16 * i.val) = BitVec.ofNat 32
          (w.sizeExp.toNat + 256 * w.branch.val + (if w.rights.read then 0x10000 else 0)
            + (if w.rights.write then 0x20000 else 0) + (if w.rights.post then 0x40000 else 0)
            + (if w.rights.swap then 0x80000 else 0) + (if w.valid then 0x80000000 else 0)) ∧
        s.readWord (0x10C + 16 * i.val) = w.hits) ∧
    (∀ e : EntryIx, ∀ word0 : Carried → Nat → Word, (word0 = fun c state => BitVec.ofNat 32
        (state + 16 * c.branch.val + 256 * c.tag.toNat +
          4096 * (match c.kind with | .read => 0 | .write => 1 | .swap => 2) + 65536 * c.position.val +
          0x100000 * (c.count % 32))) →
      ∀ left : Time → Nat, (left = fun d => (d - s.now + 9) / 10 % 0x100000) →
      (s.entry e = .free → s.readWord (0x500 + 8 * e.val) = 0 ∧ s.readWord (0x504 + 8 * e.val) = 0) ∧
      (∀ c t d, s.entry e = .waiting c t d →
        s.readWord (0x500 + 8 * e.val) = word0 c 1 ∧
          s.readWord (0x504 + 8 * e.val) = BitVec.ofNat 32 (left d + 0x100000 * t.toNat)) ∧
      ∀ c d st, s.entry e = .orphaned c d st →
        s.readWord (0x500 + 8 * e.val) = word0 c 2 ∧
          s.readWord (0x504 + 8 * e.val) = BitVec.ofNat 32 (left d + 0x10000000 * st.code)) ∧
    (∀ number : Source → Nat, (number = fun src => match src with | .self => 0 | .attachment b p => 1 + 8 * b.val + p.val) →
      s.readWord 0x600 = BitVec.ofNat 32
        (s.notices.length % 64 + 256 * (match s.notices with | [] => 0 | n :: _ => number n.source)) ∧
      s.readWord 0x604 = BitVec.ofNat 32 s.selfCauses.toNat ∧
      (∀ i, i < 33 → ∀ n, s.notices[i]? = some n → s.readWord (0x608 + 4 * i) = BitVec.ofNat 32
        (number n.source + 256 * (match n.body with | .self _ => 0 | .attachment _ _ code => code.toNat)
          + 65536 * (n.merges % 16) + 0x1000000 * (n.presentations % 256))) ∧
      ∀ i, i < 33 → s.notices.length ≤ i → s.readWord (0x608 + 4 * i) = 0) ∧
    (∀ (i : Nat) (w : Word),
      [s.noticeUnit.joined, s.noticeUnit.merged, s.noticeUnit.discarded, s.noticeUnit.presented, s.noticeUnit.skipped,
        s.noticeUnit.acknowledged][i]? = some w → s.readWord (0x68C + 4 * i) = w) ∧
    (∀ (i : Nat) (w : Word),
      [s.u.port.counters.badFrames, s.u.port.counters.discarded, s.u.port.counters.trainingAttempts,
        s.u.port.counters.creditOverflow, s.classifier.noroute, s.classifier.denied, s.classifier.bounds,
        s.classifier.malformed, s.classifier.absent, s.classifier.busy, s.classifier.tagClash, s.classifier.postDropped,
        s.tracker.timeout, s.tracker.late, s.tracker.stray, s.tracker.abandoned, s.tracker.badreply, s.tracker.cut,
        s.mgmt.reads, s.mgmt.writes, s.mgmt.commands, s.mgmt.partialWrite, s.mgmt.readonly, s.mgmt.badentry,
        s.mgmt.refused, s.mgmt.denied, s.mgmt.postDropped][i]? = some w → s.readWord (0x700 + 4 * i) = w) ∧
    (∀ off, off % 4 = 0 → off = 0x03C ∨ (0x6A4 ≤ off ∧ off < 0x700) ∨ (0x76C ≤ off ∧ off < 0x800) ∨ 0x900 ≤ off →
      s.readWord off = 0) ∧
    ([LinkState.off, .training, .up, .quiet].map LinkState.code = List.range 4 ∧
      (∀ d, [BranchState.down, .active, .draining, .dormant, .waking d, .failed].map BranchState.code = List.range 6) ∧
      [EnumOutcome.none, .done, .tooMany, .conflict, .poolExhausted, .noAnswer, .aborted].map EnumOutcome.code =
        List.range 7 ∧
      [Status.ok, .fault, .noroute, .denied, .bounds, .malformed, .absent, .busy, .lost, .timeout, .flushed, .badreply,
        .refused, .partialWrite, .badentry, .readonly].map Status.code = List.range 16)

/-- MANAGEMENT_SWAP: the head of the input queue is answered DENIED, detail 0, no data; the denied counter counts it and the
block is neither read nor written (R207). -/
def Obligations.SwapIsDenied : Prop :=
  ∀ (s : State) (t : UTag) (offset count : Nat) (data : List Word),
    s.mgmtQueue.head? = some { hdr := .tagged .swap t, offset := offset, count := count, data := data } →
    ∀ v : State, v = s.afterHeadLeaves →
    exec .managementSwap s =
      .next (State.placeReply t .denied 0 [] { v with mgmt := { v.mgmt with denied := v.mgmt.denied + 1 } })

/-- How a WRITE, or a POST as a WRITE, is judged, whichever command of the table its execution is (assumption 11 says which). A read-only word makes it
READONLY, and one stands between any two command words; else a window entry or configuration record covered in part makes it
PARTIAL; else a covered record that fails its own validation makes it BADENTRY: a valid window entry that R6 does not admit,
configuration values out of their ranges, an interval above 255, a command word that names no command; else a pool that may not
change, or a command that its owner does not accept, makes it REFUSED. Refused, it changes only its count. A write whose words all
belong to nothing is applied without effect: counted, and answered OK (R6, R94, R142, R143, R155, R203, R205, R206, R208, R212,
R213). -/
def Obligations.WriteIsJudgedInOrder : Prop :=
  ∀ (s : State) (r : MgmtRequest), s.mgmtQueue.head? = some r → isWrite r.hdr = true →
    ∀ v : State, v = s.afterHeadLeaves →
    ∀ word : Nat → WordRecord, (word = fun i => wordRecord (r.offset + 4 * i)) →
    ∀ part : Prop, (part = ∃ i, i < r.count ∧
      ((∃ w j, word i = .window w j ∧
          ¬(r.offset ≤ windowOffset w ∧ windowOffset w + 16 ≤ r.offset + 4 * r.count)) ∨
        ∃ b j, word i = .config b j ∧
          ¬(r.offset ≤ configOffset b ∧ configOffset b + 12 ≤ r.offset + 4 * r.count))) →
    ∀ bad : Prop, (bad = ∃ i, i < r.count ∧
      ((∃ w j, word i = .window w j ∧ ∃ e : Window, e = r.windowFor w ∧ e.valid = true ∧
          ∃ k, k = e.sizeExp.toNat ∧ ¬(8 ≤ k ∧ k ≤ 28 ∧ k ≤ s.spanExp ∧ e.offset.toNat % 2 ^ k = 0 ∧
            e.target.toNat % 2 ^ k = 0 ∧ e.offset.toNat + 2 ^ k ≤ 2 ^ s.spanExp ∧ 4096 ≤ e.offset.toNat)) ∨
        (∃ b j, word i = .config b j ∧ ∃ c : BranchConfig, c = r.configFor b ∧
          ¬(12 ≤ c.poolExp ∧ c.poolExp ≤ 31 ∧ c.poolBase.toNat % 2 ^ c.poolExp = 0 ∧ 1 ≤ c.limit ∧ c.limit ≤ 16 ∧
            1 ≤ c.replyTimeout ∧ 1 ≤ c.orphanHold)) ∨
        (word i = .interval ∧ 255 < (r.wordAt 0x014).toNat) ∨
        (word i = .globalCommand ∧ ∃ code, code = (r.wordAt 0x018).toNat % 16 ∧
          (code = 0 ∨ 2 < code ∨ (code = 1 ∧ 32 < (r.wordAt 0x018).toNat / 16 % 64))) ∨
        ∃ b, word i = .branchCommand b ∧ ∃ code, code = (r.wordAt (0x054 + 48 * b.val)).toNat % 16 ∧
          (code = 0 ∨ 5 < code))) →
    ∀ refused : Prop, (refused = ∃ i, i < r.count ∧
      ((∃ b j, word i = .config b j ∧ ∃ c : BranchConfig, c = r.configFor b ∧
          (c.poolBase ≠ (v.br b).config.poolBase ∨ c.poolExp ≠ (v.br b).config.poolExp) ∧
          ((v.br b).enumeration ≠ .idle ∨ ∃ p : Position, v.record b p ≠ .vacant)) ∨
        ∃ c, r.command? (word i) = some c ∧ v.commandAccepted c = false)) →
    ((∃ i, i < r.count ∧ word i = .readOnly) → exec r.row.command s = .next (v.writeRefused r.hdr .readonly)) ∧
    ((∃ i j, i < j ∧ j < r.count ∧ (word i).isCommand = true ∧ (word j).isCommand = true) →
      exec r.row.command s = .next (v.writeRefused r.hdr .readonly)) ∧
    ((∀ i, i < r.count → word i ≠ .readOnly) → part →
      exec r.row.command s = .next (v.writeRefused r.hdr .partialWrite)) ∧
    ((∀ i, i < r.count → word i ≠ .readOnly) → ¬part → bad →
      exec r.row.command s = .next (v.writeRefused r.hdr .badentry)) ∧
    ((∀ i, i < r.count → word i ≠ .readOnly) → ¬part → ¬bad → refused →
      exec r.row.command s = .next (v.writeRefused r.hdr .refused)) ∧
    ((∀ i, i < r.count → word i = .unmapped) →
      exec .managementWrite s =
        .next (State.answer r.hdr .ok { v with mgmt := { v.mgmt with writes := v.mgmt.writes + 1 } }))

/-- WINDOW_ENTRY_WRITE of one or more whole entries. Where each has valid clear, or valid set and the conditions of R6 met, each
entry covered takes the values written and its hit counter is zero, and no other entry changes; where one has not, the write is
BADENTRY and no entry changes. The fourth word of an entry is not examined (R4, R6, R7, R8, R9, R205, R206, R212). -/
def Obligations.WindowEntryIsWrittenWhole : Prop :=
  ∀ (s : State) (h : ReqHeader) (i : WindowIx) (n : Nat) (data : List Word),
    1 ≤ n → i.val + n ≤ 32 → data.length = 4 * n → s.nextWrite h (0x100 + 16 * i.val) data →
    ∀ v : State, v = s.afterHeadLeaves →
    ∀ word : Nat → Nat → Word, (word = fun m j => data.getD (4 * m + j) 0) →
    ∀ entry : Nat → Window, (entry = fun m =>
      { valid := (word m 2).getLsbD 31
        offset := word m 0
        sizeExp := BitVec.ofNat 8 ((word m 2).toNat % 256)
        branch := Fin.ofNat 4 ((word m 2).toNat / 256 % 4)
        target := word m 1
        rights :=
          { read := (word m 2).getLsbD 16
            write := (word m 2).getLsbD 17
            post := (word m 2).getLsbD 18
            swap := (word m 2).getLsbD 19 }
        hits := 0 }) →
    ∀ fits : Nat → Prop, (fits = fun m => ∃ k, k = (word m 2).toNat % 256 ∧ 8 ≤ k ∧ k ≤ 28 ∧ k ≤ s.spanExp ∧
      (word m 0).toNat % 2 ^ k = 0 ∧ (word m 1).toNat % 2 ^ k = 0 ∧ (word m 0).toNat + 2 ^ k ≤ 2 ^ s.spanExp ∧
      4096 ≤ (word m 0).toNat) →
    ((∀ m, m < n → (entry m).valid = false ∨ fits m) →
      ∃ t, exec .windowEntryWrite s = .next (State.answer h .ok t) ∧
        (∀ (j : WindowIx) (m : Nat), m < n → j.val = i.val + m → t.windows[j] = entry m) ∧
        (∀ j : WindowIx, j.val < i.val ∨ i.val + n ≤ j.val → t.windows[j] = v.windows[j]) ∧
        t = { v with windows := t.windows, mgmt := { v.mgmt with writes := v.mgmt.writes + 1 } }) ∧
    ((∃ m, m < n ∧ (entry m).valid = true ∧ ¬fits m) →
      exec .windowEntryWrite s = .next (v.writeRefused h .badentry))

/-- CONFIGURATION_WRITE of one branch's whole record, and RE_PRESENT_INTERVAL_WRITE. A value out of its range is BADENTRY; a
pool other than the one held, while a record is in use or an enumeration runs, is REFUSED; else the five values are
replaced. Written together with the branch's command word, the record and the command are judged against the state as it
stands: a value out of range, or a word that names no command, is BADENTRY; a pinned pool, or a command its owner does not
accept, is REFUSED and leaves the configuration as it was; else the configuration is set first and the command takes effect
on it. That such a write is executed under the row of its command, or with an unknown code under MANAGEMENT_WRITE, is assumption
11. An interval of 0 to 255 is stored, one above is BADENTRY. No running timer is touched (R94, R142, R143, R155, R205, R206,
R208, R212). -/
def Obligations.ConfigurationAndIntervalWrites : Prop :=
  ∀ (s : State) (h : ReqHeader) (v : State), v = s.afterHeadLeaves →
    (∀ (b : Branch) (w0 w1 w2 : Word),
      ∀ c : BranchConfig, c =
        { poolBase := w0
          poolExp := w1.toNat % 256
          limit := w1.toNat / 256 % 256
          autoEnumerate := w1.getLsbD 16
          replyTimeout := w2.toNat % 65536
          orphanHold := w2.toNat / 65536 } →
      ∀ ranged : Prop, (ranged = (12 ≤ c.poolExp ∧ c.poolExp ≤ 31 ∧ c.poolBase.toNat % 2 ^ c.poolExp = 0 ∧
        1 ≤ c.limit ∧ c.limit ≤ 16 ∧ 1 ≤ c.replyTimeout ∧ 1 ≤ c.orphanHold)) →
      ∀ pinned : Prop, (pinned =
        ((c.poolBase ≠ (v.br b).config.poolBase ∨ c.poolExp ≠ (v.br b).config.poolExp) ∧
          ((v.br b).enumeration ≠ .idle ∨ ∃ p : Position, v.record b p ≠ .vacant))) →
      (s.nextWrite h (0x048 + 48 * b.val) [w0, w1, w2] →
        (¬ranged → exec .configurationWrite s = .next (v.writeRefused h .badentry)) ∧
        (ranged → pinned → exec .configurationWrite s = .next (v.writeRefused h .refused)) ∧
        (ranged → ¬pinned →
          exec .configurationWrite s = .next (State.answer h .ok
            { v.setBr b { v.br b with config := c } with mgmt := { v.mgmt with writes := v.mgmt.writes + 1 } }))) ∧
      ∀ w3 : Word, s.nextWrite h (0x048 + 48 * b.val) [w0, w1, w2, w3] →
        ((w3.toNat % 16 = 0 ∨ 5 < w3.toNat % 16) →
          exec .managementWrite s = .next (v.writeRefused h .badentry)) ∧
        ∀ (i : Instr) (cmd : Command), branchCommand b w3 = some cmd →
          (w3.toNat % 16, i) ∈ [(1, .enumerate), (2, .release), (3, .branchReset), (4, .dormant), (5, .wake)] →
          (¬ranged → exec i s = .next (v.writeRefused h .badentry)) ∧
          (ranged → pinned ∨ v.commandAccepted cmd = false → exec i s = .next (v.writeRefused h .refused)) ∧
          (ranged → ¬pinned → v.commandAccepted cmd = true →
            exec i s = .next (State.commandDone h (State.applyCommand cmd (v.setBr b { v.br b with config := c }))))) ∧
    ∀ w : Word, s.nextWrite h 0x014 [w] →
      (w.toNat ≤ 255 →
        exec .rePresentIntervalWrite s = .next (State.answer h .ok
          { v with interval := w.toNat, mgmt := { v.mgmt with writes := v.mgmt.writes + 1 } })) ∧
      (255 < w.toNat → exec .rePresentIntervalWrite s = .next (v.writeRefused h .badentry))

/-- The ENUMERATE and DORMANT commands, each as the write of one branch command word. ENUMERATE is REFUSED unless the branch is
ACTIVE with no enumeration running; accepted, it starts one: counted, outcome NONE, the identify timer started, IDENTIFY handed
to a link that is UP. DORMANT is REFUSED unless the branch is ACTIVE, owes no CLEAR and runs no enumeration; accepted, the
branch drains, and the drain is judged at once. A refused command changes only its count. A code that names no command is
BADENTRY; that its write is executed under MANAGEMENT_WRITE is assumption 11 (R98, R100, R128, R129, R208, R212). -/
def Obligations.EnumerateAndDormantCommands : Prop :=
  ∀ (s : State) (h : ReqHeader) (b : Branch) (w : Word), s.nextWrite h (0x054 + 48 * b.val) [w] →
    ∀ v : State, v = s.afterHeadLeaves →
    (w.toNat % 16 = 1 →
      ((v.br b).state = .active → (v.br b).enumeration = .idle →
        exec .enumerate s = .next (State.commandDone h (v.setBr b { v.br b with
          outcome := .none
          chain := { (v.br b).chain with enumerations := (v.br b).chain.enumerations + 1 }
          enumeration := .running .identify (v.now + Config.identifyTimer)
          unsent := (v.br b).unsent ++ (if (v.br b).port.link = .up then [.identify] else []) }))) ∧
      ((v.br b).state ≠ .active ∨ (v.br b).enumeration ≠ .idle →
        exec .enumerate s = .next (v.writeRefused h .refused))) ∧
    (w.toNat % 16 = 4 →
      ((v.br b).state = .active → (v.br b).clearOwed = false → (v.br b).enumeration = .idle →
        exec .dormant s =
          .next (State.commandDone h (State.judgeDrain b (v.setBr b { v.br b with state := .draining })))) ∧
      ((v.br b).state ≠ .active ∨ (v.br b).clearOwed = true ∨ (v.br b).enumeration ≠ .idle →
        exec .dormant s = .next (v.writeRefused h .refused))) ∧
    (w.toNat % 16 = 0 ∨ 5 < w.toNat % 16 → exec .managementWrite s = .next (v.writeRefused h .badentry))

/-- The WAKE and RELEASE commands. WAKE is accepted in every branch state and clears the wake latch; it cancels a drain, makes a
DORMANT or FAILED branch WAKING (its wake timer started, the entry counted, its port training unless a HUSH still waits in a
link that is UP), and changes no other state. RELEASE of an ASSIGNED position of an ACTIVE or DRAINING branch hands RELEASE
with the record's base, the link being UP; of a LOST or UNPLACED one it sends nothing; each makes the record VACANT and removes the notice of
the position. Any other RELEASE is REFUSED (R110, R111, R132, R136, R160, R195). -/
def Obligations.WakeAndReleaseCommands : Prop :=
  ∀ (s : State) (h : ReqHeader) (b : Branch) (w : Word), s.nextWrite h (0x054 + 48 * b.val) [w] →
    ∀ v : State, v = s.afterHeadLeaves →
    (w.toNat % 16 = 5 →
      ((v.br b).state = .draining →
        exec .wake s = .next (State.commandDone h (v.setBr b { v.br b with state := .active, wakeLatch := false }))) ∧
      (((v.br b).state = .active ∨ (v.br b).state = .down ∨ ∃ d, (v.br b).state = .waking d) →
        exec .wake s = .next (State.commandDone h (v.setBr b { v.br b with wakeLatch := false }))) ∧
      (((v.br b).state = .dormant ∨ (v.br b).state = .failed) → v.resetPin = false →
        exec .wake s = .next (State.commandDone h (v.setBr b { v.br b with
          state := .waking (v.now + Config.wakeTimer)
          wakeLatch := false
          controller := { (v.br b).controller with wakes := (v.br b).controller.wakes + 1 }
          port := if (v.br b).port.link = .up then (v.br b).port else { (v.br b).port with
            link := .training
            badRun := 0
            attemptTimer := some (v.now + Config.trainingAttempt)
            relistenTimer := none }
          credit := if (v.br b).port.link = .up then (v.br b).credit else 0 })))) ∧
    ∀ p : Position, w.toNat % 16 = 2 → w.toNat / 16 % 8 = p.val →
      ∀ freed : List BranchFrame → State, (freed = fun fs => State.removeNotices (· == .attachment b p)
        (v.setBr b { v.br b with
          records := (v.br b).records.set p.val .vacant p.isLt
          unsent := (v.br b).unsent ++ fs })) →
      (∀ m base, v.record b p = .assigned m base →
        (((v.br b).state = .active ∨ (v.br b).state = .draining) →
          exec .release s = .next
            (State.commandDone h (freed (if (v.br b).port.link = .up then [.release base] else [])))) ∧
        ((v.br b).state ≠ .active → (v.br b).state ≠ .draining →
          exec .release s = .next (v.writeRefused h .refused))) ∧
      (((∃ m base, v.record b p = .lost m base) ∨ ∃ m, v.record b p = .unplaced m) →
        exec .release s = .next (State.commandDone h (freed []))) ∧
      ((v.record b p = .vacant ∨ ∃ m base, v.record b p = .identified m base) →
        exec .release s = .next (v.writeRefused h .refused))

/-- The BRANCH_RESET command, accepted in every branch state. The queue is empty and its slots counted as flushed; WAITING entries
are ORPHANED with reported status FLUSHED and a deadline from the present orphan hold; every record is VACANT; a running
enumeration is ABORTED and ENUM raised; the queued and then the pending requests are answered FLUSHED; the branch's notices
are gone, and the other notices keep their bodies and their order; clear-owed is set and the wake latch clear. ACTIVE and
DRAINING become ACTIVE with CLEAR handed, unless the one owed by the link's entry into UP still waits; DORMANT and FAILED
become WAKING; WAKING and DOWN stay. Configuration and other branches are kept (R57, R58, R78, R81, R106, R108, R117, R136, R140,
R141, R160, R161; the place of an ATTENTION frame among the REPLYs is free, assumption 3). -/
def Obligations.BranchResetStartsTheBranchAfresh : Prop :=
  ∀ (s : State) (h : ReqHeader) (b : Branch) (w : Word), s.nextWrite h (0x054 + 48 * b.val) [w] → w.toNat % 16 = 3 →
    s.resetPin = false →
    ∀ v : State, v = s.afterHeadLeaves →
    ∀ tags : List UTag, tags = v.queueTags b ++ v.waitingTags b (fun _ => true) →
    ∀ woken : Bool, woken = (decide ((v.br b).state = .dormant) || decide ((v.br b).state = .failed)) →
    ∀ trains : Bool, trains = (woken && decide ((v.br b).port.link ≠ .up)) →
    ∀ stays : Bool, stays = (decide ((v.br b).state = .active) || decide ((v.br b).state = .draining)) →
    ∃ t, exec .branchReset s = .next (State.commandDone h t) ∧
      t.br b = { v.br b with
        state := if stays then .active else if woken then .waking (v.now + Config.wakeTimer) else (v.br b).state
        clearOwed := true
        wakeLatch := false
        controller := if woken then { (v.br b).controller with wakes := (v.br b).controller.wakes + 1 }
          else (v.br b).controller
        queue := []
        forwarder := { (v.br b).forwarder with
          flushed := (v.br b).forwarder.flushed + BitVec.ofNat 32 (v.br b).queue.length }
        records := Vector.replicate 8 Record.vacant
        enumeration := .idle
        outcome := if (v.br b).enumerating then .aborted else (v.br b).outcome
        port := if trains then { (v.br b).port with
            link := .training
            badRun := 0
            attemptTimer := some (v.now + Config.trainingAttempt)
            relistenTimer := none } else (v.br b).port
        credit := if trains then 0 else (v.br b).credit
        unsent := (v.br b).unsent ++
          (if stays && decide ((v.br b).port.link = .up) && !(v.br b).unsent.contains .clear then [.resetClear] else []) } ∧
      (∀ c : Branch, c ≠ b → t.br c = v.br c) ∧
      (∀ e : EntryIx, t.entry e =
        match v.entry e with
        | .waiting c ut d =>
          if c.branch = b then
            .orphaned c (v.now + (v.br b).config.orphanHold * Config.orphanHoldUnit) .flushed
          else .waiting c ut d
        | .free => .free
        | .orphaned c d st => .orphaned c d st) ∧
      t.replies = v.replies ++ repliesOf tags .flushed ∧
      t.tagReg = v.tagReg.filter (fun x => !tags.contains x) ∧
      t.reservations = v.reservations - tags.length ∧
      t.tracker = { v.tracker with
        cut := v.tracker.cut + BitVec.ofNat 32 (v.waitingTags b fun _ => true).length } ∧
      t.selfCauses = v.selfCauses ||| (if (v.br b).enumerating then (Cause.enum b).toSet else 0) ∧
      (∀ p : Position, t.hasNotice (.attachment b p) = false) ∧
      State.NotesEvent v t (if (v.br b).enumerating then [.enum b] else []) (Source.isOf b fun _ => true) ∧
      t = { v with
        u := t.u
        upstream := t.upstream
        tagReg := t.tagReg
        egress := t.egress
        reservations := t.reservations
        entries := t.entries
        tracker := t.tracker
        branches := t.branches
        notices := t.notices
        rePresentTimer := t.rePresentTimer
        presentationOwed := t.presentationOwed
        noticeUnit := t.noticeUnit
        choices := t.choices }

/-- The NOTICE_ACK command, and what the removal of a notice does. A source above 32 is BADENTRY; a source without a notice is
REFUSED, and so is the self source where no named cause is in the set. The attachment's notice is removed and the wake
latch of its branch cleared; the self notice goes where all its causes are named, and else rejoins at the tail with the others
and counts at 0. Where the head goes, the presentation of the new head falls due; where no notice is left, the timer stops
and the owed mark is cleared; where another goes, only the queue changes (R147, R158, R159, R161, R208, R212). -/
def Obligations.NoticeAckRemovesOrRejoins : Prop :=
  ∀ (s : State) (h : ReqHeader) (w : Word), s.nextWrite h 0x018 [w] → w.toNat % 16 = 1 →
    ∀ v : State, v = s.afterHeadLeaves →
    ∀ n : Nat, n = w.toNat / 16 % 64 →
    ∀ causes : CauseSet, causes = BitVec.ofNat 17 (w.toNat / 1024) →
    ∀ done : State → State, (done = fun t => State.commandDone h
      { t with noticeUnit := { t.noticeUnit with acknowledged := t.noticeUnit.acknowledged + 1 } }) →
    ∀ put : List Notice → Bool → State, (put = fun left headGone =>
      if left = [] then { v with notices := [], rePresentTimer := none, presentationOwed := false }
      else if headGone then State.presentationDue { v with notices := left }
      else { v with notices := left }) →
    (32 < n → exec .noticeAck s = .next (v.writeRefused h .badentry)) ∧
    (∀ (b : Branch) (p : Position), n = 1 + 8 * b.val + p.val → ∀ src : Source, src = .attachment b p →
      (v.hasNotice src = false → exec .noticeAck s = .next (v.writeRefused h .refused)) ∧
      (v.hasNotice src = true →
        ∀ a : State, a = put (v.notices.filter fun x => decide (x.source ≠ src))
          (v.notices.head?.any fun x => decide (x.source = src)) →
        exec .noticeAck s = .next (done (a.setBr b { a.br b with wakeLatch := false })))) ∧
    (n = 0 →
      (v.hasNotice .self = false ∨ v.selfCauses &&& causes = 0 →
        exec .noticeAck s = .next (v.writeRefused h .refused)) ∧
      (v.hasNotice .self = true → v.selfCauses &&& causes ≠ 0 →
        exec .noticeAck s = .next (done (put
          ((v.notices.filter fun x => decide (x.source ≠ .self)) ++
            (if v.selfCauses &&& ~~~causes = 0 then []
              else [{ body := .self (v.selfCauses &&& ~~~causes), merges := 0, presentations := 0 }]))
          (v.notices.head?.any fun x => decide (x.source = .self))))))

/-- The CLEAR_COUNTERS command, in every state: every counter is zero, the hit counters of the window entries among them; the
counts that belong to a mechanism are kept, and the write is answered OK and not counted (R209). -/
def Obligations.ClearCountersZeroesEveryCounter : Prop :=
  ∀ (s : State) (h : ReqHeader) (w : Word), s.nextWrite h 0x018 [w] → w.toNat % 16 = 2 →
    ∀ v : State, v = s.afterHeadLeaves →
    ∃ t, exec .clearCounters s = .next (State.answer h .ok t) ∧
      (∀ i : WindowIx, t.windows[i] = { v.windows[i] with hits := 0 }) ∧
      (∀ b : Branch, t.br b = { v.br b with
        controller := ⟨0, 0, 0, 0, 0⟩
        forwarder := ⟨0, 0, 0, 0⟩
        chain := ⟨0, 0, 0, 0, 0, 0⟩
        port := { (v.br b).port with counters := ⟨0, 0, 0, 0⟩ } }) ∧
      t = { v with
        u := { v.u with port := { v.u.port with counters := ⟨0, 0, 0, 0⟩ } }
        upstream := ⟨0, 0, 0, 0, 0, 0, 0, 0⟩
        windows := t.windows
        classifier := ⟨0, 0, 0, 0, 0, 0, 0, 0⟩
        mgmt := ⟨0, 0, 0, 0, 0, 0, 0, 0, 0⟩
        tracker := ⟨0, 0, 0, 0, 0, 0⟩
        branches := t.branches
        noticeUnit := ⟨0, 0, 0, 0, 0, 0⟩ }

/-! ### What every step keeps -/

/-- The laws of the tag register and of the egress reservation: no step takes a state that keeps them to one that does not
(R23, R24, R27). -/
def Obligations.StepKeepsTagLaw : Prop :=
  ∀ s t : State, s.TagLaw → step s = .next t → t.TagLaw

/-- The credit of U and the upstream relations: each is kept by every step (R19, R20, R165, R179, R182, R200). -/
def Obligations.StepKeepsCreditAndUpstreamLaws : Prop :=
  ∀ s t : State, step s = .next t → (s.CreditLaw → t.CreditLaw) ∧ (s.UpstreamLaw → t.UpstreamLaw)

/-- What holds of each branch and its link is kept by every step from a state whose upstream side is lawful (R97, R122, R124, R127,
R130, R142, R192; with more than one CLEAR waiting it rests on assumption 13). -/
def Obligations.StepKeepsBranchesLawful : Prop :=
  ∀ s t : State, s.UpstreamLaw → s.BranchesLawful → step s = .next t → t.BranchesLawful

/-- The law of branch tags is kept by every step; so is, on lawful branches, the emptiness of the branches that carry no traffic
(R43, R62, R131, R139). -/
def Obligations.StepKeepsBranchTagAndDormancyLaws : Prop :=
  ∀ s t : State, step s = .next t →
    (s.BranchTagLaw → t.BranchTagLaw) ∧ (s.BranchesLawful → s.DormancyLaw → t.DormancyLaw)

/-- The law of attachment ranges and the law of the window table are each kept by every step (R6, R93, R94). -/
def Obligations.StepKeepsRangeAndWindowLaws : Prop :=
  ∀ s t : State, step s = .next t → (s.RangeLaw → t.RangeLaw) ∧ (s.WindowLaw → t.WindowLaw)

/-- The law of the notice queue is kept by every step from a state whose branches are lawful (R148 to R150, R157, R160). -/
def Obligations.StepKeepsNoticeLaw : Prop :=
  ∀ s t : State, s.BranchesLawful → s.NoticeLaw → step s = .next t → t.NoticeLaw

/-- What the part's queues hold is kept by every step from a state whose upstream side is lawful; and, in any state, no step
passes an age deadline or a reply deadline with its slot still queued or its entry still WAITING (R3, R29, R32, R43, R53, R70,
R201, R216; the clock and the order of the deadlines are assumption 1). -/
def Obligations.StepKeepsRequestLaw : Prop :=
  ∀ s t : State, step s = .next t →
    (s.UpstreamLaw → s.RequestLaw → t.RequestLaw) ∧ (s.RequestsOnTime → t.RequestsOnTime)
end

