-- ==== Sys2Proof/Laws/State.lean ====
section
/-!
SUPPORT. What the plain updates of State leave alone and what they set: one lemma for each field of each update.
-/

namespace Sys2Proof.Machine

open Sys2Proof

/-! ### setBr -/

@[simp] theorem State.setBr_now (s : State) (b : Branch) (u : BranchUnit) : (s.setBr b u).now = s.now := rfl
@[simp] theorem State.setBr_resetPin (s : State) (b : Branch) (u : BranchUnit) : (s.setBr b u).resetPin = s.resetPin := rfl
@[simp] theorem State.setBr_spanExp (s : State) (b : Branch) (u : BranchUnit) : (s.setBr b u).spanExp = s.spanExp := rfl
@[simp] theorem State.setBr_identity (s : State) (b : Branch) (u : BranchUnit) : (s.setBr b u).identity = s.identity := rfl
@[simp] theorem State.setBr_member (s : State) (b : Branch) (u : BranchUnit) : (s.setBr b u).member = s.member := rfl
@[simp] theorem State.setBr_u (s : State) (b : Branch) (u : BranchUnit) : (s.setBr b u).u = s.u := rfl
@[simp] theorem State.setBr_upstream (s : State) (b : Branch) (u : BranchUnit) : (s.setBr b u).upstream = s.upstream := rfl
@[simp] theorem State.setBr_ingress (s : State) (b : Branch) (u : BranchUnit) : (s.setBr b u).ingress = s.ingress := rfl
@[simp] theorem State.setBr_held (s : State) (b : Branch) (u : BranchUnit) : (s.setBr b u).held = s.held := rfl
@[simp] theorem State.setBr_tagReg (s : State) (b : Branch) (u : BranchUnit) : (s.setBr b u).tagReg = s.tagReg := rfl
@[simp] theorem State.setBr_windows (s : State) (b : Branch) (u : BranchUnit) : (s.setBr b u).windows = s.windows := rfl
@[simp] theorem State.setBr_classifier (s : State) (b : Branch) (u : BranchUnit) : (s.setBr b u).classifier = s.classifier := rfl
@[simp] theorem State.setBr_egress (s : State) (b : Branch) (u : BranchUnit) : (s.setBr b u).egress = s.egress := rfl
@[simp] theorem State.setBr_reservations (s : State) (b : Branch) (u : BranchUnit) : (s.setBr b u).reservations = s.reservations := rfl
@[simp] theorem State.setBr_mgmtQueue (s : State) (b : Branch) (u : BranchUnit) : (s.setBr b u).mgmtQueue = s.mgmtQueue := rfl
@[simp] theorem State.setBr_mgmt (s : State) (b : Branch) (u : BranchUnit) : (s.setBr b u).mgmt = s.mgmt := rfl
@[simp] theorem State.setBr_entries (s : State) (b : Branch) (u : BranchUnit) : (s.setBr b u).entries = s.entries := rfl
@[simp] theorem State.setBr_tracker (s : State) (b : Branch) (u : BranchUnit) : (s.setBr b u).tracker = s.tracker := rfl
@[simp] theorem State.setBr_notices (s : State) (b : Branch) (u : BranchUnit) : (s.setBr b u).notices = s.notices := rfl
@[simp] theorem State.setBr_rePresentTimer (s : State) (b : Branch) (u : BranchUnit) : (s.setBr b u).rePresentTimer = s.rePresentTimer := rfl
@[simp] theorem State.setBr_presentationOwed (s : State) (b : Branch) (u : BranchUnit) : (s.setBr b u).presentationOwed = s.presentationOwed := rfl
@[simp] theorem State.setBr_interval (s : State) (b : Branch) (u : BranchUnit) : (s.setBr b u).interval = s.interval := rfl
@[simp] theorem State.setBr_noticeUnit (s : State) (b : Branch) (u : BranchUnit) : (s.setBr b u).noticeUnit = s.noticeUnit := rfl
@[simp] theorem State.setBr_choices (s : State) (b : Branch) (u : BranchUnit) : (s.setBr b u).choices = s.choices := rfl
@[simp] theorem State.setBr_pending (s : State) (b : Branch) (u : BranchUnit) : (s.setBr b u).pending = s.pending := rfl
@[simp] theorem State.setBr_entry (s : State) (b : Branch) (u : BranchUnit) (e' : EntryIx) : (s.setBr b u).entry e' = s.entry e' := rfl

/-! ### updBr -/

@[simp] theorem State.updBr_now (s : State) (b : Branch) (f : BranchUnit → BranchUnit) : (s.updBr b f).now = s.now := rfl
@[simp] theorem State.updBr_resetPin (s : State) (b : Branch) (f : BranchUnit → BranchUnit) : (s.updBr b f).resetPin = s.resetPin := rfl
@[simp] theorem State.updBr_spanExp (s : State) (b : Branch) (f : BranchUnit → BranchUnit) : (s.updBr b f).spanExp = s.spanExp := rfl
@[simp] theorem State.updBr_identity (s : State) (b : Branch) (f : BranchUnit → BranchUnit) : (s.updBr b f).identity = s.identity := rfl
@[simp] theorem State.updBr_member (s : State) (b : Branch) (f : BranchUnit → BranchUnit) : (s.updBr b f).member = s.member := rfl
@[simp] theorem State.updBr_u (s : State) (b : Branch) (f : BranchUnit → BranchUnit) : (s.updBr b f).u = s.u := rfl
@[simp] theorem State.updBr_upstream (s : State) (b : Branch) (f : BranchUnit → BranchUnit) : (s.updBr b f).upstream = s.upstream := rfl
@[simp] theorem State.updBr_ingress (s : State) (b : Branch) (f : BranchUnit → BranchUnit) : (s.updBr b f).ingress = s.ingress := rfl
@[simp] theorem State.updBr_held (s : State) (b : Branch) (f : BranchUnit → BranchUnit) : (s.updBr b f).held = s.held := rfl
@[simp] theorem State.updBr_tagReg (s : State) (b : Branch) (f : BranchUnit → BranchUnit) : (s.updBr b f).tagReg = s.tagReg := rfl
@[simp] theorem State.updBr_windows (s : State) (b : Branch) (f : BranchUnit → BranchUnit) : (s.updBr b f).windows = s.windows := rfl
@[simp] theorem State.updBr_classifier (s : State) (b : Branch) (f : BranchUnit → BranchUnit) : (s.updBr b f).classifier = s.classifier := rfl
@[simp] theorem State.updBr_egress (s : State) (b : Branch) (f : BranchUnit → BranchUnit) : (s.updBr b f).egress = s.egress := rfl
@[simp] theorem State.updBr_reservations (s : State) (b : Branch) (f : BranchUnit → BranchUnit) : (s.updBr b f).reservations = s.reservations := rfl
@[simp] theorem State.updBr_mgmtQueue (s : State) (b : Branch) (f : BranchUnit → BranchUnit) : (s.updBr b f).mgmtQueue = s.mgmtQueue := rfl
@[simp] theorem State.updBr_mgmt (s : State) (b : Branch) (f : BranchUnit → BranchUnit) : (s.updBr b f).mgmt = s.mgmt := rfl
@[simp] theorem State.updBr_entries (s : State) (b : Branch) (f : BranchUnit → BranchUnit) : (s.updBr b f).entries = s.entries := rfl
@[simp] theorem State.updBr_tracker (s : State) (b : Branch) (f : BranchUnit → BranchUnit) : (s.updBr b f).tracker = s.tracker := rfl
@[simp] theorem State.updBr_notices (s : State) (b : Branch) (f : BranchUnit → BranchUnit) : (s.updBr b f).notices = s.notices := rfl
@[simp] theorem State.updBr_rePresentTimer (s : State) (b : Branch) (f : BranchUnit → BranchUnit) : (s.updBr b f).rePresentTimer = s.rePresentTimer := rfl
@[simp] theorem State.updBr_presentationOwed (s : State) (b : Branch) (f : BranchUnit → BranchUnit) : (s.updBr b f).presentationOwed = s.presentationOwed := rfl
@[simp] theorem State.updBr_interval (s : State) (b : Branch) (f : BranchUnit → BranchUnit) : (s.updBr b f).interval = s.interval := rfl
@[simp] theorem State.updBr_noticeUnit (s : State) (b : Branch) (f : BranchUnit → BranchUnit) : (s.updBr b f).noticeUnit = s.noticeUnit := rfl
@[simp] theorem State.updBr_choices (s : State) (b : Branch) (f : BranchUnit → BranchUnit) : (s.updBr b f).choices = s.choices := rfl
@[simp] theorem State.updBr_pending (s : State) (b : Branch) (f : BranchUnit → BranchUnit) : (s.updBr b f).pending = s.pending := rfl
@[simp] theorem State.updBr_entry (s : State) (b : Branch) (f : BranchUnit → BranchUnit) (e' : EntryIx) : (s.updBr b f).entry e' = s.entry e' := rfl

/-! ### setEntry -/

@[simp] theorem State.setEntry_now (s : State) (e : EntryIx) (x : PendingEntry) : (s.setEntry e x).now = s.now := rfl
@[simp] theorem State.setEntry_resetPin (s : State) (e : EntryIx) (x : PendingEntry) : (s.setEntry e x).resetPin = s.resetPin := rfl
@[simp] theorem State.setEntry_spanExp (s : State) (e : EntryIx) (x : PendingEntry) : (s.setEntry e x).spanExp = s.spanExp := rfl
@[simp] theorem State.setEntry_identity (s : State) (e : EntryIx) (x : PendingEntry) : (s.setEntry e x).identity = s.identity := rfl
@[simp] theorem State.setEntry_member (s : State) (e : EntryIx) (x : PendingEntry) : (s.setEntry e x).member = s.member := rfl
@[simp] theorem State.setEntry_u (s : State) (e : EntryIx) (x : PendingEntry) : (s.setEntry e x).u = s.u := rfl
@[simp] theorem State.setEntry_upstream (s : State) (e : EntryIx) (x : PendingEntry) : (s.setEntry e x).upstream = s.upstream := rfl
@[simp] theorem State.setEntry_ingress (s : State) (e : EntryIx) (x : PendingEntry) : (s.setEntry e x).ingress = s.ingress := rfl
@[simp] theorem State.setEntry_held (s : State) (e : EntryIx) (x : PendingEntry) : (s.setEntry e x).held = s.held := rfl
@[simp] theorem State.setEntry_tagReg (s : State) (e : EntryIx) (x : PendingEntry) : (s.setEntry e x).tagReg = s.tagReg := rfl
@[simp] theorem State.setEntry_windows (s : State) (e : EntryIx) (x : PendingEntry) : (s.setEntry e x).windows = s.windows := rfl
@[simp] theorem State.setEntry_classifier (s : State) (e : EntryIx) (x : PendingEntry) : (s.setEntry e x).classifier = s.classifier := rfl
@[simp] theorem State.setEntry_egress (s : State) (e : EntryIx) (x : PendingEntry) : (s.setEntry e x).egress = s.egress := rfl
@[simp] theorem State.setEntry_reservations (s : State) (e : EntryIx) (x : PendingEntry) : (s.setEntry e x).reservations = s.reservations := rfl
@[simp] theorem State.setEntry_mgmtQueue (s : State) (e : EntryIx) (x : PendingEntry) : (s.setEntry e x).mgmtQueue = s.mgmtQueue := rfl
@[simp] theorem State.setEntry_mgmt (s : State) (e : EntryIx) (x : PendingEntry) : (s.setEntry e x).mgmt = s.mgmt := rfl
@[simp] theorem State.setEntry_tracker (s : State) (e : EntryIx) (x : PendingEntry) : (s.setEntry e x).tracker = s.tracker := rfl
@[simp] theorem State.setEntry_branches (s : State) (e : EntryIx) (x : PendingEntry) : (s.setEntry e x).branches = s.branches := rfl
@[simp] theorem State.setEntry_notices (s : State) (e : EntryIx) (x : PendingEntry) : (s.setEntry e x).notices = s.notices := rfl
@[simp] theorem State.setEntry_rePresentTimer (s : State) (e : EntryIx) (x : PendingEntry) : (s.setEntry e x).rePresentTimer = s.rePresentTimer := rfl
@[simp] theorem State.setEntry_presentationOwed (s : State) (e : EntryIx) (x : PendingEntry) : (s.setEntry e x).presentationOwed = s.presentationOwed := rfl
@[simp] theorem State.setEntry_interval (s : State) (e : EntryIx) (x : PendingEntry) : (s.setEntry e x).interval = s.interval := rfl
@[simp] theorem State.setEntry_noticeUnit (s : State) (e : EntryIx) (x : PendingEntry) : (s.setEntry e x).noticeUnit = s.noticeUnit := rfl
@[simp] theorem State.setEntry_choices (s : State) (e : EntryIx) (x : PendingEntry) : (s.setEntry e x).choices = s.choices := rfl
@[simp] theorem State.setEntry_pending (s : State) (e : EntryIx) (x : PendingEntry) : (s.setEntry e x).pending = s.pending := rfl
@[simp] theorem State.setEntry_br (s : State) (e : EntryIx) (x : PendingEntry) (b' : Branch) : (s.setEntry e x).br b' = s.br b' := rfl

/-! ### advanceTo -/

@[simp] theorem State.advanceTo_resetPin (s : State) (d : Time) : (s.advanceTo d).resetPin = s.resetPin := rfl
@[simp] theorem State.advanceTo_spanExp (s : State) (d : Time) : (s.advanceTo d).spanExp = s.spanExp := rfl
@[simp] theorem State.advanceTo_identity (s : State) (d : Time) : (s.advanceTo d).identity = s.identity := rfl
@[simp] theorem State.advanceTo_member (s : State) (d : Time) : (s.advanceTo d).member = s.member := rfl
@[simp] theorem State.advanceTo_u (s : State) (d : Time) : (s.advanceTo d).u = s.u := rfl
@[simp] theorem State.advanceTo_upstream (s : State) (d : Time) : (s.advanceTo d).upstream = s.upstream := rfl
@[simp] theorem State.advanceTo_ingress (s : State) (d : Time) : (s.advanceTo d).ingress = s.ingress := rfl
@[simp] theorem State.advanceTo_held (s : State) (d : Time) : (s.advanceTo d).held = s.held := rfl
@[simp] theorem State.advanceTo_tagReg (s : State) (d : Time) : (s.advanceTo d).tagReg = s.tagReg := rfl
@[simp] theorem State.advanceTo_windows (s : State) (d : Time) : (s.advanceTo d).windows = s.windows := rfl
@[simp] theorem State.advanceTo_classifier (s : State) (d : Time) : (s.advanceTo d).classifier = s.classifier := rfl
@[simp] theorem State.advanceTo_egress (s : State) (d : Time) : (s.advanceTo d).egress = s.egress := rfl
@[simp] theorem State.advanceTo_reservations (s : State) (d : Time) : (s.advanceTo d).reservations = s.reservations := rfl
@[simp] theorem State.advanceTo_mgmtQueue (s : State) (d : Time) : (s.advanceTo d).mgmtQueue = s.mgmtQueue := rfl
@[simp] theorem State.advanceTo_mgmt (s : State) (d : Time) : (s.advanceTo d).mgmt = s.mgmt := rfl
@[simp] theorem State.advanceTo_entries (s : State) (d : Time) : (s.advanceTo d).entries = s.entries := rfl
@[simp] theorem State.advanceTo_tracker (s : State) (d : Time) : (s.advanceTo d).tracker = s.tracker := rfl
@[simp] theorem State.advanceTo_branches (s : State) (d : Time) : (s.advanceTo d).branches = s.branches := rfl
@[simp] theorem State.advanceTo_notices (s : State) (d : Time) : (s.advanceTo d).notices = s.notices := rfl
@[simp] theorem State.advanceTo_rePresentTimer (s : State) (d : Time) : (s.advanceTo d).rePresentTimer = s.rePresentTimer := rfl
@[simp] theorem State.advanceTo_presentationOwed (s : State) (d : Time) : (s.advanceTo d).presentationOwed = s.presentationOwed := rfl
@[simp] theorem State.advanceTo_interval (s : State) (d : Time) : (s.advanceTo d).interval = s.interval := rfl
@[simp] theorem State.advanceTo_noticeUnit (s : State) (d : Time) : (s.advanceTo d).noticeUnit = s.noticeUnit := rfl
@[simp] theorem State.advanceTo_choices (s : State) (d : Time) : (s.advanceTo d).choices = s.choices := rfl
@[simp] theorem State.advanceTo_pending (s : State) (d : Time) : (s.advanceTo d).pending = s.pending := rfl
@[simp] theorem State.advanceTo_br (s : State) (d : Time) (b' : Branch) : (s.advanceTo d).br b' = s.br b' := rfl
@[simp] theorem State.advanceTo_entry (s : State) (d : Time) (e' : EntryIx) : (s.advanceTo d).entry e' = s.entry e' := rfl

/-! ### hand -/

@[simp] theorem State.hand_now (s : State) (b : Branch) (f : BranchFrame) : (s.hand b f).now = s.now := rfl
@[simp] theorem State.hand_resetPin (s : State) (b : Branch) (f : BranchFrame) : (s.hand b f).resetPin = s.resetPin := rfl
@[simp] theorem State.hand_spanExp (s : State) (b : Branch) (f : BranchFrame) : (s.hand b f).spanExp = s.spanExp := rfl
@[simp] theorem State.hand_identity (s : State) (b : Branch) (f : BranchFrame) : (s.hand b f).identity = s.identity := rfl
@[simp] theorem State.hand_member (s : State) (b : Branch) (f : BranchFrame) : (s.hand b f).member = s.member := rfl
@[simp] theorem State.hand_u (s : State) (b : Branch) (f : BranchFrame) : (s.hand b f).u = s.u := rfl
@[simp] theorem State.hand_upstream (s : State) (b : Branch) (f : BranchFrame) : (s.hand b f).upstream = s.upstream := rfl
@[simp] theorem State.hand_ingress (s : State) (b : Branch) (f : BranchFrame) : (s.hand b f).ingress = s.ingress := rfl
@[simp] theorem State.hand_held (s : State) (b : Branch) (f : BranchFrame) : (s.hand b f).held = s.held := rfl
@[simp] theorem State.hand_tagReg (s : State) (b : Branch) (f : BranchFrame) : (s.hand b f).tagReg = s.tagReg := rfl
@[simp] theorem State.hand_windows (s : State) (b : Branch) (f : BranchFrame) : (s.hand b f).windows = s.windows := rfl
@[simp] theorem State.hand_classifier (s : State) (b : Branch) (f : BranchFrame) : (s.hand b f).classifier = s.classifier := rfl
@[simp] theorem State.hand_egress (s : State) (b : Branch) (f : BranchFrame) : (s.hand b f).egress = s.egress := rfl
@[simp] theorem State.hand_reservations (s : State) (b : Branch) (f : BranchFrame) : (s.hand b f).reservations = s.reservations := rfl
@[simp] theorem State.hand_mgmtQueue (s : State) (b : Branch) (f : BranchFrame) : (s.hand b f).mgmtQueue = s.mgmtQueue := rfl
@[simp] theorem State.hand_mgmt (s : State) (b : Branch) (f : BranchFrame) : (s.hand b f).mgmt = s.mgmt := rfl
@[simp] theorem State.hand_entries (s : State) (b : Branch) (f : BranchFrame) : (s.hand b f).entries = s.entries := rfl
@[simp] theorem State.hand_tracker (s : State) (b : Branch) (f : BranchFrame) : (s.hand b f).tracker = s.tracker := rfl
@[simp] theorem State.hand_notices (s : State) (b : Branch) (f : BranchFrame) : (s.hand b f).notices = s.notices := rfl
@[simp] theorem State.hand_rePresentTimer (s : State) (b : Branch) (f : BranchFrame) : (s.hand b f).rePresentTimer = s.rePresentTimer := rfl
@[simp] theorem State.hand_presentationOwed (s : State) (b : Branch) (f : BranchFrame) : (s.hand b f).presentationOwed = s.presentationOwed := rfl
@[simp] theorem State.hand_interval (s : State) (b : Branch) (f : BranchFrame) : (s.hand b f).interval = s.interval := rfl
@[simp] theorem State.hand_noticeUnit (s : State) (b : Branch) (f : BranchFrame) : (s.hand b f).noticeUnit = s.noticeUnit := rfl
@[simp] theorem State.hand_choices (s : State) (b : Branch) (f : BranchFrame) : (s.hand b f).choices = s.choices := rfl
@[simp] theorem State.hand_pending (s : State) (b : Branch) (f : BranchFrame) : (s.hand b f).pending = s.pending := rfl
@[simp] theorem State.hand_entry (s : State) (b : Branch) (f : BranchFrame) (e' : EntryIx) : (s.hand b f).entry e' = s.entry e' := rfl

/-! ### trainBranch -/

@[simp] theorem State.trainBranch_now (s : State) (b : Branch) : (s.trainBranch b).now = s.now := rfl
@[simp] theorem State.trainBranch_resetPin (s : State) (b : Branch) : (s.trainBranch b).resetPin = s.resetPin := rfl
@[simp] theorem State.trainBranch_spanExp (s : State) (b : Branch) : (s.trainBranch b).spanExp = s.spanExp := rfl
@[simp] theorem State.trainBranch_identity (s : State) (b : Branch) : (s.trainBranch b).identity = s.identity := rfl
@[simp] theorem State.trainBranch_member (s : State) (b : Branch) : (s.trainBranch b).member = s.member := rfl
@[simp] theorem State.trainBranch_u (s : State) (b : Branch) : (s.trainBranch b).u = s.u := rfl
@[simp] theorem State.trainBranch_upstream (s : State) (b : Branch) : (s.trainBranch b).upstream = s.upstream := rfl
@[simp] theorem State.trainBranch_ingress (s : State) (b : Branch) : (s.trainBranch b).ingress = s.ingress := rfl
@[simp] theorem State.trainBranch_held (s : State) (b : Branch) : (s.trainBranch b).held = s.held := rfl
@[simp] theorem State.trainBranch_tagReg (s : State) (b : Branch) : (s.trainBranch b).tagReg = s.tagReg := rfl
@[simp] theorem State.trainBranch_windows (s : State) (b : Branch) : (s.trainBranch b).windows = s.windows := rfl
@[simp] theorem State.trainBranch_classifier (s : State) (b : Branch) : (s.trainBranch b).classifier = s.classifier := rfl
@[simp] theorem State.trainBranch_egress (s : State) (b : Branch) : (s.trainBranch b).egress = s.egress := rfl
@[simp] theorem State.trainBranch_reservations (s : State) (b : Branch) : (s.trainBranch b).reservations = s.reservations := rfl
@[simp] theorem State.trainBranch_mgmtQueue (s : State) (b : Branch) : (s.trainBranch b).mgmtQueue = s.mgmtQueue := rfl
@[simp] theorem State.trainBranch_mgmt (s : State) (b : Branch) : (s.trainBranch b).mgmt = s.mgmt := rfl
@[simp] theorem State.trainBranch_entries (s : State) (b : Branch) : (s.trainBranch b).entries = s.entries := rfl
@[simp] theorem State.trainBranch_tracker (s : State) (b : Branch) : (s.trainBranch b).tracker = s.tracker := rfl
@[simp] theorem State.trainBranch_notices (s : State) (b : Branch) : (s.trainBranch b).notices = s.notices := rfl
@[simp] theorem State.trainBranch_rePresentTimer (s : State) (b : Branch) : (s.trainBranch b).rePresentTimer = s.rePresentTimer := rfl
@[simp] theorem State.trainBranch_presentationOwed (s : State) (b : Branch) : (s.trainBranch b).presentationOwed = s.presentationOwed := rfl
@[simp] theorem State.trainBranch_interval (s : State) (b : Branch) : (s.trainBranch b).interval = s.interval := rfl
@[simp] theorem State.trainBranch_noticeUnit (s : State) (b : Branch) : (s.trainBranch b).noticeUnit = s.noticeUnit := rfl
@[simp] theorem State.trainBranch_choices (s : State) (b : Branch) : (s.trainBranch b).choices = s.choices := rfl
@[simp] theorem State.trainBranch_pending (s : State) (b : Branch) : (s.trainBranch b).pending = s.pending := rfl
@[simp] theorem State.trainBranch_entry (s : State) (b : Branch) (e' : EntryIx) : (s.trainBranch b).entry e' = s.entry e' := rfl

/-! ### goodFrameOn -/

@[simp] theorem State.goodFrameOn_now (s : State) (b : Branch) : (s.goodFrameOn b).now = s.now := rfl
@[simp] theorem State.goodFrameOn_resetPin (s : State) (b : Branch) : (s.goodFrameOn b).resetPin = s.resetPin := rfl
@[simp] theorem State.goodFrameOn_spanExp (s : State) (b : Branch) : (s.goodFrameOn b).spanExp = s.spanExp := rfl
@[simp] theorem State.goodFrameOn_identity (s : State) (b : Branch) : (s.goodFrameOn b).identity = s.identity := rfl
@[simp] theorem State.goodFrameOn_member (s : State) (b : Branch) : (s.goodFrameOn b).member = s.member := rfl
@[simp] theorem State.goodFrameOn_u (s : State) (b : Branch) : (s.goodFrameOn b).u = s.u := rfl
@[simp] theorem State.goodFrameOn_upstream (s : State) (b : Branch) : (s.goodFrameOn b).upstream = s.upstream := rfl
@[simp] theorem State.goodFrameOn_ingress (s : State) (b : Branch) : (s.goodFrameOn b).ingress = s.ingress := rfl
@[simp] theorem State.goodFrameOn_held (s : State) (b : Branch) : (s.goodFrameOn b).held = s.held := rfl
@[simp] theorem State.goodFrameOn_tagReg (s : State) (b : Branch) : (s.goodFrameOn b).tagReg = s.tagReg := rfl
@[simp] theorem State.goodFrameOn_windows (s : State) (b : Branch) : (s.goodFrameOn b).windows = s.windows := rfl
@[simp] theorem State.goodFrameOn_classifier (s : State) (b : Branch) : (s.goodFrameOn b).classifier = s.classifier := rfl
@[simp] theorem State.goodFrameOn_egress (s : State) (b : Branch) : (s.goodFrameOn b).egress = s.egress := rfl
@[simp] theorem State.goodFrameOn_reservations (s : State) (b : Branch) : (s.goodFrameOn b).reservations = s.reservations := rfl
@[simp] theorem State.goodFrameOn_mgmtQueue (s : State) (b : Branch) : (s.goodFrameOn b).mgmtQueue = s.mgmtQueue := rfl
@[simp] theorem State.goodFrameOn_mgmt (s : State) (b : Branch) : (s.goodFrameOn b).mgmt = s.mgmt := rfl
@[simp] theorem State.goodFrameOn_entries (s : State) (b : Branch) : (s.goodFrameOn b).entries = s.entries := rfl
@[simp] theorem State.goodFrameOn_tracker (s : State) (b : Branch) : (s.goodFrameOn b).tracker = s.tracker := rfl
@[simp] theorem State.goodFrameOn_notices (s : State) (b : Branch) : (s.goodFrameOn b).notices = s.notices := rfl
@[simp] theorem State.goodFrameOn_rePresentTimer (s : State) (b : Branch) : (s.goodFrameOn b).rePresentTimer = s.rePresentTimer := rfl
@[simp] theorem State.goodFrameOn_presentationOwed (s : State) (b : Branch) : (s.goodFrameOn b).presentationOwed = s.presentationOwed := rfl
@[simp] theorem State.goodFrameOn_interval (s : State) (b : Branch) : (s.goodFrameOn b).interval = s.interval := rfl
@[simp] theorem State.goodFrameOn_noticeUnit (s : State) (b : Branch) : (s.goodFrameOn b).noticeUnit = s.noticeUnit := rfl
@[simp] theorem State.goodFrameOn_choices (s : State) (b : Branch) : (s.goodFrameOn b).choices = s.choices := rfl
@[simp] theorem State.goodFrameOn_pending (s : State) (b : Branch) : (s.goodFrameOn b).pending = s.pending := rfl
@[simp] theorem State.goodFrameOn_entry (s : State) (b : Branch) (e' : EntryIx) : (s.goodFrameOn b).entry e' = s.entry e' := rfl

/-! ### setRecord -/

@[simp] theorem State.setRecord_now (s : State) (b : Branch) (p : Position) (r : Record) : (s.setRecord b p r).now = s.now := rfl
@[simp] theorem State.setRecord_resetPin (s : State) (b : Branch) (p : Position) (r : Record) : (s.setRecord b p r).resetPin = s.resetPin := rfl
@[simp] theorem State.setRecord_spanExp (s : State) (b : Branch) (p : Position) (r : Record) : (s.setRecord b p r).spanExp = s.spanExp := rfl
@[simp] theorem State.setRecord_identity (s : State) (b : Branch) (p : Position) (r : Record) : (s.setRecord b p r).identity = s.identity := rfl
@[simp] theorem State.setRecord_member (s : State) (b : Branch) (p : Position) (r : Record) : (s.setRecord b p r).member = s.member := rfl
@[simp] theorem State.setRecord_u (s : State) (b : Branch) (p : Position) (r : Record) : (s.setRecord b p r).u = s.u := rfl
@[simp] theorem State.setRecord_upstream (s : State) (b : Branch) (p : Position) (r : Record) : (s.setRecord b p r).upstream = s.upstream := rfl
@[simp] theorem State.setRecord_ingress (s : State) (b : Branch) (p : Position) (r : Record) : (s.setRecord b p r).ingress = s.ingress := rfl
@[simp] theorem State.setRecord_held (s : State) (b : Branch) (p : Position) (r : Record) : (s.setRecord b p r).held = s.held := rfl
@[simp] theorem State.setRecord_tagReg (s : State) (b : Branch) (p : Position) (r : Record) : (s.setRecord b p r).tagReg = s.tagReg := rfl
@[simp] theorem State.setRecord_windows (s : State) (b : Branch) (p : Position) (r : Record) : (s.setRecord b p r).windows = s.windows := rfl
@[simp] theorem State.setRecord_classifier (s : State) (b : Branch) (p : Position) (r : Record) : (s.setRecord b p r).classifier = s.classifier := rfl
@[simp] theorem State.setRecord_egress (s : State) (b : Branch) (p : Position) (r : Record) : (s.setRecord b p r).egress = s.egress := rfl
@[simp] theorem State.setRecord_reservations (s : State) (b : Branch) (p : Position) (r : Record) : (s.setRecord b p r).reservations = s.reservations := rfl
@[simp] theorem State.setRecord_mgmtQueue (s : State) (b : Branch) (p : Position) (r : Record) : (s.setRecord b p r).mgmtQueue = s.mgmtQueue := rfl
@[simp] theorem State.setRecord_mgmt (s : State) (b : Branch) (p : Position) (r : Record) : (s.setRecord b p r).mgmt = s.mgmt := rfl
@[simp] theorem State.setRecord_entries (s : State) (b : Branch) (p : Position) (r : Record) : (s.setRecord b p r).entries = s.entries := rfl
@[simp] theorem State.setRecord_tracker (s : State) (b : Branch) (p : Position) (r : Record) : (s.setRecord b p r).tracker = s.tracker := rfl
@[simp] theorem State.setRecord_notices (s : State) (b : Branch) (p : Position) (r : Record) : (s.setRecord b p r).notices = s.notices := rfl
@[simp] theorem State.setRecord_rePresentTimer (s : State) (b : Branch) (p : Position) (r : Record) : (s.setRecord b p r).rePresentTimer = s.rePresentTimer := rfl
@[simp] theorem State.setRecord_presentationOwed (s : State) (b : Branch) (p : Position) (r : Record) : (s.setRecord b p r).presentationOwed = s.presentationOwed := rfl
@[simp] theorem State.setRecord_interval (s : State) (b : Branch) (p : Position) (r : Record) : (s.setRecord b p r).interval = s.interval := rfl
@[simp] theorem State.setRecord_noticeUnit (s : State) (b : Branch) (p : Position) (r : Record) : (s.setRecord b p r).noticeUnit = s.noticeUnit := rfl
@[simp] theorem State.setRecord_choices (s : State) (b : Branch) (p : Position) (r : Record) : (s.setRecord b p r).choices = s.choices := rfl
@[simp] theorem State.setRecord_pending (s : State) (b : Branch) (p : Position) (r : Record) : (s.setRecord b p r).pending = s.pending := rfl
@[simp] theorem State.setRecord_entry (s : State) (b : Branch) (p : Position) (r : Record) (e' : EntryIx) : (s.setRecord b p r).entry e' = s.entry e' := rfl
/-! ### What the updates set -/

@[simp] theorem State.br_setBr (s : State) (b : Branch) (u : BranchUnit) : (s.setBr b u).br b = u := by
  simp [State.br, State.setBr]

theorem State.br_setBr_ne (s : State) {b c : Branch} (u : BranchUnit) (h : c ≠ b) : (s.setBr b u).br c = s.br c := by
  have : b.val ≠ c.val := fun e => h (Fin.ext e.symm)
  simp [State.br, State.setBr, Vector.getElem_set_ne, this]

theorem State.br_setBr_eq (s : State) (b c : Branch) (u : BranchUnit) :
    (s.setBr b u).br c = if c = b then u else s.br c := by
  by_cases h : c = b
  · subst h; simp
  · rw [if_neg h, State.br_setBr_ne s u h]

@[simp] theorem State.setBr_setBr (s : State) (b : Branch) (u v : BranchUnit) :
    (s.setBr b u).setBr b v = s.setBr b v := by
  simp [State.setBr]

@[simp] theorem State.setBr_br (s : State) (b : Branch) : s.setBr b (s.br b) = s := by
  have h : s.branches.set b.val (s.branches[b.val]) b.isLt = s.branches := Vector.set_getElem_self b.isLt
  show { s with branches := s.branches.set b.val (s.branches[b.val]) b.isLt } = s
  rw [h]

theorem State.updBr_eq (s : State) (b : Branch) (f : BranchUnit → BranchUnit) : s.updBr b f = s.setBr b (f (s.br b)) :=
  rfl

@[simp] theorem State.br_updBr (s : State) (b : Branch) (f : BranchUnit → BranchUnit) :
    (s.updBr b f).br b = f (s.br b) :=
  State.br_setBr s b _

theorem State.br_updBr_ne (s : State) {b c : Branch} (f : BranchUnit → BranchUnit) (h : c ≠ b) :
    (s.updBr b f).br c = s.br c :=
  State.br_setBr_ne s _ h

@[simp] theorem State.updBr_updBr (s : State) (b : Branch) (f g : BranchUnit → BranchUnit) :
    (s.updBr b f).updBr b g = s.updBr b fun u => g (f u) := by
  simp [State.updBr_eq]

@[simp] theorem State.entry_setEntry (s : State) (e : EntryIx) (x : PendingEntry) : (s.setEntry e x).entry e = x := by
  simp [State.entry, State.setEntry]

theorem State.entry_setEntry_ne (s : State) {e e' : EntryIx} (x : PendingEntry) (h : e' ≠ e) :
    (s.setEntry e x).entry e' = s.entry e' := by
  have : e.val ≠ e'.val := fun g => h (Fin.ext g.symm)
  simp [State.entry, State.setEntry, Vector.getElem_set_ne, this]

/-- A branch's own fields after a change of it. -/
theorem State.hand_eq (s : State) (b : Branch) (f : BranchFrame) :
    s.hand b f = s.setBr b { s.br b with
      unsent := (s.br b).unsent ++ (if (s.br b).port.link = .up then [f] else []) } := by
  unfold State.hand
  rw [State.updBr_eq]
  by_cases h : (s.br b).port.link = .up
  · simp [h]
  · rw [if_neg h, if_neg h, List.append_nil]

/-- Two states are the same when their branches and everything else are the same. -/
theorem State.ext_branches {s t : State} (h : ∀ b : Branch, s.br b = t.br b)
    (g : { s with branches := t.branches } = t) : s = t := by
  have e : s.branches = t.branches := by
    apply Vector.ext
    intro i hi
    exact h ⟨i, hi⟩
  rw [← g, ← e]

/-- Two states are the same when each of their fields is. -/
theorem State.ext_fields {s t : State} (_ : s.now = t.now) (_ : s.resetPin = t.resetPin) (_ : s.spanExp = t.spanExp) (_ : s.identity = t.identity) (_ : s.member = t.member) (_ : s.u = t.u) (_ : s.upstream = t.upstream) (_ : s.ingress = t.ingress) (_ : s.held = t.held) (_ : s.tagReg = t.tagReg) (_ : s.windows = t.windows) (_ : s.classifier = t.classifier) (_ : s.egress = t.egress) (_ : s.reservations = t.reservations) (_ : s.mgmtQueue = t.mgmtQueue) (_ : s.mgmt = t.mgmt) (_ : s.entries = t.entries) (_ : s.tracker = t.tracker) (_ : s.branches = t.branches) (_ : s.notices = t.notices) (_ : s.rePresentTimer = t.rePresentTimer) (_ : s.presentationOwed = t.presentationOwed) (_ : s.interval = t.interval) (_ : s.noticeUnit = t.noticeUnit) (_ : s.choices = t.choices) (_ : s.pending = t.pending) : s = t := by
  cases s; cases t; simp_all

end Sys2Proof.Machine
end

