-- ==== Sys2Proof/Laws/Frames.lean ====
section
/-!
SUPPORT. What the shared operations leave alone: one lemma for each field. The operations that place frames, change the notice
queue or judge a drain touch nothing else, whichever way their tests come out.
-/

namespace Sys2Proof.Machine

open Sys2Proof

/-! ### signalWakeU -/

@[simp] theorem State.signalWakeU_now (s : State) : (s.signalWakeU).now = s.now := by unfold State.signalWakeU; split <;> rfl
@[simp] theorem State.signalWakeU_resetPin (s : State) : (s.signalWakeU).resetPin = s.resetPin := by unfold State.signalWakeU; split <;> rfl
@[simp] theorem State.signalWakeU_spanExp (s : State) : (s.signalWakeU).spanExp = s.spanExp := by unfold State.signalWakeU; split <;> rfl
@[simp] theorem State.signalWakeU_identity (s : State) : (s.signalWakeU).identity = s.identity := by unfold State.signalWakeU; split <;> rfl
@[simp] theorem State.signalWakeU_member (s : State) : (s.signalWakeU).member = s.member := by unfold State.signalWakeU; split <;> rfl
@[simp] theorem State.signalWakeU_ingress (s : State) : (s.signalWakeU).ingress = s.ingress := by unfold State.signalWakeU; split <;> rfl
@[simp] theorem State.signalWakeU_held (s : State) : (s.signalWakeU).held = s.held := by unfold State.signalWakeU; split <;> rfl
@[simp] theorem State.signalWakeU_tagReg (s : State) : (s.signalWakeU).tagReg = s.tagReg := by unfold State.signalWakeU; split <;> rfl
@[simp] theorem State.signalWakeU_windows (s : State) : (s.signalWakeU).windows = s.windows := by unfold State.signalWakeU; split <;> rfl
@[simp] theorem State.signalWakeU_classifier (s : State) : (s.signalWakeU).classifier = s.classifier := by unfold State.signalWakeU; split <;> rfl
@[simp] theorem State.signalWakeU_egress (s : State) : (s.signalWakeU).egress = s.egress := by unfold State.signalWakeU; split <;> rfl
@[simp] theorem State.signalWakeU_reservations (s : State) : (s.signalWakeU).reservations = s.reservations := by unfold State.signalWakeU; split <;> rfl
@[simp] theorem State.signalWakeU_mgmtQueue (s : State) : (s.signalWakeU).mgmtQueue = s.mgmtQueue := by unfold State.signalWakeU; split <;> rfl
@[simp] theorem State.signalWakeU_mgmt (s : State) : (s.signalWakeU).mgmt = s.mgmt := by unfold State.signalWakeU; split <;> rfl
@[simp] theorem State.signalWakeU_entries (s : State) : (s.signalWakeU).entries = s.entries := by unfold State.signalWakeU; split <;> rfl
@[simp] theorem State.signalWakeU_tracker (s : State) : (s.signalWakeU).tracker = s.tracker := by unfold State.signalWakeU; split <;> rfl
@[simp] theorem State.signalWakeU_branches (s : State) : (s.signalWakeU).branches = s.branches := by unfold State.signalWakeU; split <;> rfl
@[simp] theorem State.signalWakeU_notices (s : State) : (s.signalWakeU).notices = s.notices := by unfold State.signalWakeU; split <;> rfl
@[simp] theorem State.signalWakeU_rePresentTimer (s : State) : (s.signalWakeU).rePresentTimer = s.rePresentTimer := by unfold State.signalWakeU; split <;> rfl
@[simp] theorem State.signalWakeU_presentationOwed (s : State) : (s.signalWakeU).presentationOwed = s.presentationOwed := by unfold State.signalWakeU; split <;> rfl
@[simp] theorem State.signalWakeU_interval (s : State) : (s.signalWakeU).interval = s.interval := by unfold State.signalWakeU; split <;> rfl
@[simp] theorem State.signalWakeU_noticeUnit (s : State) : (s.signalWakeU).noticeUnit = s.noticeUnit := by unfold State.signalWakeU; split <;> rfl
@[simp] theorem State.signalWakeU_choices (s : State) : (s.signalWakeU).choices = s.choices := by unfold State.signalWakeU; split <;> rfl
@[simp] theorem State.signalWakeU_pending (s : State) : (s.signalWakeU).pending = s.pending := by unfold State.signalWakeU; split <;> rfl
@[simp] theorem State.signalWakeU_br (s : State)  (b' : Branch) : (s.signalWakeU).br b' = s.br b' := congrArg (·[b']) (State.signalWakeU_branches s)
@[simp] theorem State.signalWakeU_entry (s : State)  (e' : EntryIx) : (s.signalWakeU).entry e' = s.entry e' := 
  congrArg (·[e']) (State.signalWakeU_entries s)

/-! ### placeEgress -/

@[simp] theorem State.placeEgress_now (s : State) (f : EgressFrame) : (s.placeEgress f).now = s.now := State.signalWakeU_now _
@[simp] theorem State.placeEgress_resetPin (s : State) (f : EgressFrame) : (s.placeEgress f).resetPin = s.resetPin := State.signalWakeU_resetPin _
@[simp] theorem State.placeEgress_spanExp (s : State) (f : EgressFrame) : (s.placeEgress f).spanExp = s.spanExp := State.signalWakeU_spanExp _
@[simp] theorem State.placeEgress_identity (s : State) (f : EgressFrame) : (s.placeEgress f).identity = s.identity := State.signalWakeU_identity _
@[simp] theorem State.placeEgress_member (s : State) (f : EgressFrame) : (s.placeEgress f).member = s.member := State.signalWakeU_member _
@[simp] theorem State.placeEgress_ingress (s : State) (f : EgressFrame) : (s.placeEgress f).ingress = s.ingress := State.signalWakeU_ingress _
@[simp] theorem State.placeEgress_held (s : State) (f : EgressFrame) : (s.placeEgress f).held = s.held := State.signalWakeU_held _
@[simp] theorem State.placeEgress_tagReg (s : State) (f : EgressFrame) : (s.placeEgress f).tagReg = s.tagReg := State.signalWakeU_tagReg _
@[simp] theorem State.placeEgress_windows (s : State) (f : EgressFrame) : (s.placeEgress f).windows = s.windows := State.signalWakeU_windows _
@[simp] theorem State.placeEgress_classifier (s : State) (f : EgressFrame) : (s.placeEgress f).classifier = s.classifier := State.signalWakeU_classifier _
@[simp] theorem State.placeEgress_reservations (s : State) (f : EgressFrame) : (s.placeEgress f).reservations = s.reservations := State.signalWakeU_reservations _
@[simp] theorem State.placeEgress_mgmtQueue (s : State) (f : EgressFrame) : (s.placeEgress f).mgmtQueue = s.mgmtQueue := State.signalWakeU_mgmtQueue _
@[simp] theorem State.placeEgress_mgmt (s : State) (f : EgressFrame) : (s.placeEgress f).mgmt = s.mgmt := State.signalWakeU_mgmt _
@[simp] theorem State.placeEgress_entries (s : State) (f : EgressFrame) : (s.placeEgress f).entries = s.entries := State.signalWakeU_entries _
@[simp] theorem State.placeEgress_tracker (s : State) (f : EgressFrame) : (s.placeEgress f).tracker = s.tracker := State.signalWakeU_tracker _
@[simp] theorem State.placeEgress_branches (s : State) (f : EgressFrame) : (s.placeEgress f).branches = s.branches := State.signalWakeU_branches _
@[simp] theorem State.placeEgress_notices (s : State) (f : EgressFrame) : (s.placeEgress f).notices = s.notices := State.signalWakeU_notices _
@[simp] theorem State.placeEgress_rePresentTimer (s : State) (f : EgressFrame) : (s.placeEgress f).rePresentTimer = s.rePresentTimer := State.signalWakeU_rePresentTimer _
@[simp] theorem State.placeEgress_presentationOwed (s : State) (f : EgressFrame) : (s.placeEgress f).presentationOwed = s.presentationOwed := State.signalWakeU_presentationOwed _
@[simp] theorem State.placeEgress_interval (s : State) (f : EgressFrame) : (s.placeEgress f).interval = s.interval := State.signalWakeU_interval _
@[simp] theorem State.placeEgress_noticeUnit (s : State) (f : EgressFrame) : (s.placeEgress f).noticeUnit = s.noticeUnit := State.signalWakeU_noticeUnit _
@[simp] theorem State.placeEgress_choices (s : State) (f : EgressFrame) : (s.placeEgress f).choices = s.choices := State.signalWakeU_choices _
@[simp] theorem State.placeEgress_pending (s : State) (f : EgressFrame) : (s.placeEgress f).pending = s.pending := State.signalWakeU_pending _
@[simp] theorem State.placeEgress_br (s : State) (f : EgressFrame) (b' : Branch) : (s.placeEgress f).br b' = s.br b' := congrArg (·[b']) (State.placeEgress_branches s f)
@[simp] theorem State.placeEgress_entry (s : State) (f : EgressFrame) (e' : EntryIx) : (s.placeEgress f).entry e' = s.entry e' := 
  congrArg (·[e']) (State.placeEgress_entries s f)
/-- The frame of placeEgress as one equation. -/
theorem State.placeEgress_frame (s : State) (f : EgressFrame) : s.placeEgress f = { s with
    u := (s.placeEgress f).u
    upstream := (s.placeEgress f).upstream
    egress := (s.placeEgress f).egress } :=
  State.ext_fields (State.placeEgress_now s f)
    (State.placeEgress_resetPin s f)
    (State.placeEgress_spanExp s f)
    (State.placeEgress_identity s f)
    (State.placeEgress_member s f) rfl rfl (State.placeEgress_ingress s f)
    (State.placeEgress_held s f)
    (State.placeEgress_tagReg s f)
    (State.placeEgress_windows s f)
    (State.placeEgress_classifier s f) rfl (State.placeEgress_reservations s f)
    (State.placeEgress_mgmtQueue s f)
    (State.placeEgress_mgmt s f)
    (State.placeEgress_entries s f)
    (State.placeEgress_tracker s f)
    (State.placeEgress_branches s f)
    (State.placeEgress_notices s f)
    (State.placeEgress_rePresentTimer s f)
    (State.placeEgress_presentationOwed s f)
    (State.placeEgress_interval s f)
    (State.placeEgress_noticeUnit s f)
    (State.placeEgress_choices s f)
    (State.placeEgress_pending s f)

/-! ### placeReply -/

@[simp] theorem State.placeReply_now (s : State) (t : UTag) (st : Status) (d : Byte) (ws : List Word) : (s.placeReply t st d ws).now = s.now := State.placeEgress_now _ _
@[simp] theorem State.placeReply_resetPin (s : State) (t : UTag) (st : Status) (d : Byte) (ws : List Word) : (s.placeReply t st d ws).resetPin = s.resetPin := State.placeEgress_resetPin _ _
@[simp] theorem State.placeReply_spanExp (s : State) (t : UTag) (st : Status) (d : Byte) (ws : List Word) : (s.placeReply t st d ws).spanExp = s.spanExp := State.placeEgress_spanExp _ _
@[simp] theorem State.placeReply_identity (s : State) (t : UTag) (st : Status) (d : Byte) (ws : List Word) : (s.placeReply t st d ws).identity = s.identity := State.placeEgress_identity _ _
@[simp] theorem State.placeReply_member (s : State) (t : UTag) (st : Status) (d : Byte) (ws : List Word) : (s.placeReply t st d ws).member = s.member := State.placeEgress_member _ _
@[simp] theorem State.placeReply_ingress (s : State) (t : UTag) (st : Status) (d : Byte) (ws : List Word) : (s.placeReply t st d ws).ingress = s.ingress := State.placeEgress_ingress _ _
@[simp] theorem State.placeReply_held (s : State) (t : UTag) (st : Status) (d : Byte) (ws : List Word) : (s.placeReply t st d ws).held = s.held := State.placeEgress_held _ _
@[simp] theorem State.placeReply_windows (s : State) (t : UTag) (st : Status) (d : Byte) (ws : List Word) : (s.placeReply t st d ws).windows = s.windows := State.placeEgress_windows _ _
@[simp] theorem State.placeReply_classifier (s : State) (t : UTag) (st : Status) (d : Byte) (ws : List Word) : (s.placeReply t st d ws).classifier = s.classifier := State.placeEgress_classifier _ _
@[simp] theorem State.placeReply_mgmtQueue (s : State) (t : UTag) (st : Status) (d : Byte) (ws : List Word) : (s.placeReply t st d ws).mgmtQueue = s.mgmtQueue := State.placeEgress_mgmtQueue _ _
@[simp] theorem State.placeReply_mgmt (s : State) (t : UTag) (st : Status) (d : Byte) (ws : List Word) : (s.placeReply t st d ws).mgmt = s.mgmt := State.placeEgress_mgmt _ _
@[simp] theorem State.placeReply_entries (s : State) (t : UTag) (st : Status) (d : Byte) (ws : List Word) : (s.placeReply t st d ws).entries = s.entries := State.placeEgress_entries _ _
@[simp] theorem State.placeReply_tracker (s : State) (t : UTag) (st : Status) (d : Byte) (ws : List Word) : (s.placeReply t st d ws).tracker = s.tracker := State.placeEgress_tracker _ _
@[simp] theorem State.placeReply_branches (s : State) (t : UTag) (st : Status) (d : Byte) (ws : List Word) : (s.placeReply t st d ws).branches = s.branches := State.placeEgress_branches _ _
@[simp] theorem State.placeReply_notices (s : State) (t : UTag) (st : Status) (d : Byte) (ws : List Word) : (s.placeReply t st d ws).notices = s.notices := State.placeEgress_notices _ _
@[simp] theorem State.placeReply_rePresentTimer (s : State) (t : UTag) (st : Status) (d : Byte) (ws : List Word) : (s.placeReply t st d ws).rePresentTimer = s.rePresentTimer := State.placeEgress_rePresentTimer _ _
@[simp] theorem State.placeReply_presentationOwed (s : State) (t : UTag) (st : Status) (d : Byte) (ws : List Word) : (s.placeReply t st d ws).presentationOwed = s.presentationOwed := State.placeEgress_presentationOwed _ _
@[simp] theorem State.placeReply_interval (s : State) (t : UTag) (st : Status) (d : Byte) (ws : List Word) : (s.placeReply t st d ws).interval = s.interval := State.placeEgress_interval _ _
@[simp] theorem State.placeReply_noticeUnit (s : State) (t : UTag) (st : Status) (d : Byte) (ws : List Word) : (s.placeReply t st d ws).noticeUnit = s.noticeUnit := State.placeEgress_noticeUnit _ _
@[simp] theorem State.placeReply_choices (s : State) (t : UTag) (st : Status) (d : Byte) (ws : List Word) : (s.placeReply t st d ws).choices = s.choices := State.placeEgress_choices _ _
@[simp] theorem State.placeReply_pending (s : State) (t : UTag) (st : Status) (d : Byte) (ws : List Word) : (s.placeReply t st d ws).pending = s.pending := State.placeEgress_pending _ _
@[simp] theorem State.placeReply_br (s : State) (t : UTag) (st : Status) (d : Byte) (ws : List Word) (b' : Branch) : (s.placeReply t st d ws).br b' = s.br b' := congrArg (·[b']) (State.placeReply_branches s t st d ws)
@[simp] theorem State.placeReply_entry (s : State) (t : UTag) (st : Status) (d : Byte) (ws : List Word) (e' : EntryIx) : (s.placeReply t st d ws).entry e' = s.entry e' := 
  congrArg (·[e']) (State.placeReply_entries s t st d ws)
/-- The frame of placeReply as one equation. -/
theorem State.placeReply_frame (s : State) (t : UTag) (st : Status) (d : Byte) (ws : List Word) : s.placeReply t st d ws = { s with
    u := (s.placeReply t st d ws).u
    upstream := (s.placeReply t st d ws).upstream
    tagReg := (s.placeReply t st d ws).tagReg
    egress := (s.placeReply t st d ws).egress
    reservations := (s.placeReply t st d ws).reservations } :=
  State.ext_fields (State.placeReply_now s t st d ws)
    (State.placeReply_resetPin s t st d ws)
    (State.placeReply_spanExp s t st d ws)
    (State.placeReply_identity s t st d ws)
    (State.placeReply_member s t st d ws) rfl rfl (State.placeReply_ingress s t st d ws)
    (State.placeReply_held s t st d ws) rfl (State.placeReply_windows s t st d ws)
    (State.placeReply_classifier s t st d ws) rfl rfl (State.placeReply_mgmtQueue s t st d ws)
    (State.placeReply_mgmt s t st d ws)
    (State.placeReply_entries s t st d ws)
    (State.placeReply_tracker s t st d ws)
    (State.placeReply_branches s t st d ws)
    (State.placeReply_notices s t st d ws)
    (State.placeReply_rePresentTimer s t st d ws)
    (State.placeReply_presentationOwed s t st d ws)
    (State.placeReply_interval s t st d ws)
    (State.placeReply_noticeUnit s t st d ws)
    (State.placeReply_choices s t st d ws)
    (State.placeReply_pending s t st d ws)

/-! ### answer -/

@[simp] theorem State.answer_now (s : State) (h : ReqHeader) (st : Status) : (s.answer h st).now = s.now := by cases h; exacts [State.placeReply_now _ _ _ _ _, rfl]
@[simp] theorem State.answer_resetPin (s : State) (h : ReqHeader) (st : Status) : (s.answer h st).resetPin = s.resetPin := by cases h; exacts [State.placeReply_resetPin _ _ _ _ _, rfl]
@[simp] theorem State.answer_spanExp (s : State) (h : ReqHeader) (st : Status) : (s.answer h st).spanExp = s.spanExp := by cases h; exacts [State.placeReply_spanExp _ _ _ _ _, rfl]
@[simp] theorem State.answer_identity (s : State) (h : ReqHeader) (st : Status) : (s.answer h st).identity = s.identity := by cases h; exacts [State.placeReply_identity _ _ _ _ _, rfl]
@[simp] theorem State.answer_member (s : State) (h : ReqHeader) (st : Status) : (s.answer h st).member = s.member := by cases h; exacts [State.placeReply_member _ _ _ _ _, rfl]
@[simp] theorem State.answer_ingress (s : State) (h : ReqHeader) (st : Status) : (s.answer h st).ingress = s.ingress := by cases h; exacts [State.placeReply_ingress _ _ _ _ _, rfl]
@[simp] theorem State.answer_held (s : State) (h : ReqHeader) (st : Status) : (s.answer h st).held = s.held := by cases h; exacts [State.placeReply_held _ _ _ _ _, rfl]
@[simp] theorem State.answer_windows (s : State) (h : ReqHeader) (st : Status) : (s.answer h st).windows = s.windows := by cases h; exacts [State.placeReply_windows _ _ _ _ _, rfl]
@[simp] theorem State.answer_classifier (s : State) (h : ReqHeader) (st : Status) : (s.answer h st).classifier = s.classifier := by cases h; exacts [State.placeReply_classifier _ _ _ _ _, rfl]
@[simp] theorem State.answer_mgmtQueue (s : State) (h : ReqHeader) (st : Status) : (s.answer h st).mgmtQueue = s.mgmtQueue := by cases h; exacts [State.placeReply_mgmtQueue _ _ _ _ _, rfl]
@[simp] theorem State.answer_mgmt (s : State) (h : ReqHeader) (st : Status) : (s.answer h st).mgmt = s.mgmt := by cases h; exacts [State.placeReply_mgmt _ _ _ _ _, rfl]
@[simp] theorem State.answer_entries (s : State) (h : ReqHeader) (st : Status) : (s.answer h st).entries = s.entries := by cases h; exacts [State.placeReply_entries _ _ _ _ _, rfl]
@[simp] theorem State.answer_tracker (s : State) (h : ReqHeader) (st : Status) : (s.answer h st).tracker = s.tracker := by cases h; exacts [State.placeReply_tracker _ _ _ _ _, rfl]
@[simp] theorem State.answer_branches (s : State) (h : ReqHeader) (st : Status) : (s.answer h st).branches = s.branches := by cases h; exacts [State.placeReply_branches _ _ _ _ _, rfl]
@[simp] theorem State.answer_notices (s : State) (h : ReqHeader) (st : Status) : (s.answer h st).notices = s.notices := by cases h; exacts [State.placeReply_notices _ _ _ _ _, rfl]
@[simp] theorem State.answer_rePresentTimer (s : State) (h : ReqHeader) (st : Status) : (s.answer h st).rePresentTimer = s.rePresentTimer := by cases h; exacts [State.placeReply_rePresentTimer _ _ _ _ _, rfl]
@[simp] theorem State.answer_presentationOwed (s : State) (h : ReqHeader) (st : Status) : (s.answer h st).presentationOwed = s.presentationOwed := by cases h; exacts [State.placeReply_presentationOwed _ _ _ _ _, rfl]
@[simp] theorem State.answer_interval (s : State) (h : ReqHeader) (st : Status) : (s.answer h st).interval = s.interval := by cases h; exacts [State.placeReply_interval _ _ _ _ _, rfl]
@[simp] theorem State.answer_noticeUnit (s : State) (h : ReqHeader) (st : Status) : (s.answer h st).noticeUnit = s.noticeUnit := by cases h; exacts [State.placeReply_noticeUnit _ _ _ _ _, rfl]
@[simp] theorem State.answer_choices (s : State) (h : ReqHeader) (st : Status) : (s.answer h st).choices = s.choices := by cases h; exacts [State.placeReply_choices _ _ _ _ _, rfl]
@[simp] theorem State.answer_pending (s : State) (h : ReqHeader) (st : Status) : (s.answer h st).pending = s.pending := by cases h; exacts [State.placeReply_pending _ _ _ _ _, rfl]
@[simp] theorem State.answer_br (s : State) (h : ReqHeader) (st : Status) (b' : Branch) : (s.answer h st).br b' = s.br b' := congrArg (·[b']) (State.answer_branches s h st)
@[simp] theorem State.answer_entry (s : State) (h : ReqHeader) (st : Status) (e' : EntryIx) : (s.answer h st).entry e' = s.entry e' := 
  congrArg (·[e']) (State.answer_entries s h st)
/-- The frame of answer as one equation. -/
theorem State.answer_frame (s : State) (h : ReqHeader) (st : Status) : s.answer h st = { s with
    u := (s.answer h st).u
    upstream := (s.answer h st).upstream
    tagReg := (s.answer h st).tagReg
    egress := (s.answer h st).egress
    reservations := (s.answer h st).reservations } :=
  State.ext_fields (State.answer_now s h st)
    (State.answer_resetPin s h st)
    (State.answer_spanExp s h st)
    (State.answer_identity s h st)
    (State.answer_member s h st) rfl rfl (State.answer_ingress s h st)
    (State.answer_held s h st) rfl (State.answer_windows s h st)
    (State.answer_classifier s h st) rfl rfl (State.answer_mgmtQueue s h st)
    (State.answer_mgmt s h st)
    (State.answer_entries s h st)
    (State.answer_tracker s h st)
    (State.answer_branches s h st)
    (State.answer_notices s h st)
    (State.answer_rePresentTimer s h st)
    (State.answer_presentationOwed s h st)
    (State.answer_interval s h st)
    (State.answer_noticeUnit s h st)
    (State.answer_choices s h st)
    (State.answer_pending s h st)

/-! ### answerAll -/

@[simp] theorem State.answerAll_now (s : State) (hs : List ReqHeader) (st : Status) : (s.answerAll hs st).now = s.now := by
  induction hs generalizing s with
  | nil => rfl
  | cons h hs ih => exact (ih (s.answer h st)).trans (State.answer_now s h st)
@[simp] theorem State.answerAll_resetPin (s : State) (hs : List ReqHeader) (st : Status) : (s.answerAll hs st).resetPin = s.resetPin := by
  induction hs generalizing s with
  | nil => rfl
  | cons h hs ih => exact (ih (s.answer h st)).trans (State.answer_resetPin s h st)
@[simp] theorem State.answerAll_spanExp (s : State) (hs : List ReqHeader) (st : Status) : (s.answerAll hs st).spanExp = s.spanExp := by
  induction hs generalizing s with
  | nil => rfl
  | cons h hs ih => exact (ih (s.answer h st)).trans (State.answer_spanExp s h st)
@[simp] theorem State.answerAll_identity (s : State) (hs : List ReqHeader) (st : Status) : (s.answerAll hs st).identity = s.identity := by
  induction hs generalizing s with
  | nil => rfl
  | cons h hs ih => exact (ih (s.answer h st)).trans (State.answer_identity s h st)
@[simp] theorem State.answerAll_member (s : State) (hs : List ReqHeader) (st : Status) : (s.answerAll hs st).member = s.member := by
  induction hs generalizing s with
  | nil => rfl
  | cons h hs ih => exact (ih (s.answer h st)).trans (State.answer_member s h st)
@[simp] theorem State.answerAll_ingress (s : State) (hs : List ReqHeader) (st : Status) : (s.answerAll hs st).ingress = s.ingress := by
  induction hs generalizing s with
  | nil => rfl
  | cons h hs ih => exact (ih (s.answer h st)).trans (State.answer_ingress s h st)
@[simp] theorem State.answerAll_held (s : State) (hs : List ReqHeader) (st : Status) : (s.answerAll hs st).held = s.held := by
  induction hs generalizing s with
  | nil => rfl
  | cons h hs ih => exact (ih (s.answer h st)).trans (State.answer_held s h st)
@[simp] theorem State.answerAll_windows (s : State) (hs : List ReqHeader) (st : Status) : (s.answerAll hs st).windows = s.windows := by
  induction hs generalizing s with
  | nil => rfl
  | cons h hs ih => exact (ih (s.answer h st)).trans (State.answer_windows s h st)
@[simp] theorem State.answerAll_classifier (s : State) (hs : List ReqHeader) (st : Status) : (s.answerAll hs st).classifier = s.classifier := by
  induction hs generalizing s with
  | nil => rfl
  | cons h hs ih => exact (ih (s.answer h st)).trans (State.answer_classifier s h st)
@[simp] theorem State.answerAll_mgmtQueue (s : State) (hs : List ReqHeader) (st : Status) : (s.answerAll hs st).mgmtQueue = s.mgmtQueue := by
  induction hs generalizing s with
  | nil => rfl
  | cons h hs ih => exact (ih (s.answer h st)).trans (State.answer_mgmtQueue s h st)
@[simp] theorem State.answerAll_mgmt (s : State) (hs : List ReqHeader) (st : Status) : (s.answerAll hs st).mgmt = s.mgmt := by
  induction hs generalizing s with
  | nil => rfl
  | cons h hs ih => exact (ih (s.answer h st)).trans (State.answer_mgmt s h st)
@[simp] theorem State.answerAll_entries (s : State) (hs : List ReqHeader) (st : Status) : (s.answerAll hs st).entries = s.entries := by
  induction hs generalizing s with
  | nil => rfl
  | cons h hs ih => exact (ih (s.answer h st)).trans (State.answer_entries s h st)
@[simp] theorem State.answerAll_tracker (s : State) (hs : List ReqHeader) (st : Status) : (s.answerAll hs st).tracker = s.tracker := by
  induction hs generalizing s with
  | nil => rfl
  | cons h hs ih => exact (ih (s.answer h st)).trans (State.answer_tracker s h st)
@[simp] theorem State.answerAll_branches (s : State) (hs : List ReqHeader) (st : Status) : (s.answerAll hs st).branches = s.branches := by
  induction hs generalizing s with
  | nil => rfl
  | cons h hs ih => exact (ih (s.answer h st)).trans (State.answer_branches s h st)
@[simp] theorem State.answerAll_notices (s : State) (hs : List ReqHeader) (st : Status) : (s.answerAll hs st).notices = s.notices := by
  induction hs generalizing s with
  | nil => rfl
  | cons h hs ih => exact (ih (s.answer h st)).trans (State.answer_notices s h st)
@[simp] theorem State.answerAll_rePresentTimer (s : State) (hs : List ReqHeader) (st : Status) : (s.answerAll hs st).rePresentTimer = s.rePresentTimer := by
  induction hs generalizing s with
  | nil => rfl
  | cons h hs ih => exact (ih (s.answer h st)).trans (State.answer_rePresentTimer s h st)
@[simp] theorem State.answerAll_presentationOwed (s : State) (hs : List ReqHeader) (st : Status) : (s.answerAll hs st).presentationOwed = s.presentationOwed := by
  induction hs generalizing s with
  | nil => rfl
  | cons h hs ih => exact (ih (s.answer h st)).trans (State.answer_presentationOwed s h st)
@[simp] theorem State.answerAll_interval (s : State) (hs : List ReqHeader) (st : Status) : (s.answerAll hs st).interval = s.interval := by
  induction hs generalizing s with
  | nil => rfl
  | cons h hs ih => exact (ih (s.answer h st)).trans (State.answer_interval s h st)
@[simp] theorem State.answerAll_noticeUnit (s : State) (hs : List ReqHeader) (st : Status) : (s.answerAll hs st).noticeUnit = s.noticeUnit := by
  induction hs generalizing s with
  | nil => rfl
  | cons h hs ih => exact (ih (s.answer h st)).trans (State.answer_noticeUnit s h st)
@[simp] theorem State.answerAll_choices (s : State) (hs : List ReqHeader) (st : Status) : (s.answerAll hs st).choices = s.choices := by
  induction hs generalizing s with
  | nil => rfl
  | cons h hs ih => exact (ih (s.answer h st)).trans (State.answer_choices s h st)
@[simp] theorem State.answerAll_pending (s : State) (hs : List ReqHeader) (st : Status) : (s.answerAll hs st).pending = s.pending := by
  induction hs generalizing s with
  | nil => rfl
  | cons h hs ih => exact (ih (s.answer h st)).trans (State.answer_pending s h st)
@[simp] theorem State.answerAll_br (s : State) (hs : List ReqHeader) (st : Status) (b' : Branch) : (s.answerAll hs st).br b' = s.br b' := congrArg (·[b']) (State.answerAll_branches s hs st)
@[simp] theorem State.answerAll_entry (s : State) (hs : List ReqHeader) (st : Status) (e' : EntryIx) : (s.answerAll hs st).entry e' = s.entry e' := 
  congrArg (·[e']) (State.answerAll_entries s hs st)
/-- The frame of answerAll as one equation. -/
theorem State.answerAll_frame (s : State) (hs : List ReqHeader) (st : Status) : s.answerAll hs st = { s with
    u := (s.answerAll hs st).u
    upstream := (s.answerAll hs st).upstream
    tagReg := (s.answerAll hs st).tagReg
    egress := (s.answerAll hs st).egress
    reservations := (s.answerAll hs st).reservations } :=
  State.ext_fields (State.answerAll_now s hs st)
    (State.answerAll_resetPin s hs st)
    (State.answerAll_spanExp s hs st)
    (State.answerAll_identity s hs st)
    (State.answerAll_member s hs st) rfl rfl (State.answerAll_ingress s hs st)
    (State.answerAll_held s hs st) rfl (State.answerAll_windows s hs st)
    (State.answerAll_classifier s hs st) rfl rfl (State.answerAll_mgmtQueue s hs st)
    (State.answerAll_mgmt s hs st)
    (State.answerAll_entries s hs st)
    (State.answerAll_tracker s hs st)
    (State.answerAll_branches s hs st)
    (State.answerAll_notices s hs st)
    (State.answerAll_rePresentTimer s hs st)
    (State.answerAll_presentationOwed s hs st)
    (State.answerAll_interval s hs st)
    (State.answerAll_noticeUnit s hs st)
    (State.answerAll_choices s hs st)
    (State.answerAll_pending s hs st)

/-! ### presentationDue -/

@[simp] theorem State.presentationDue_now (s : State) : (s.presentationDue).now = s.now := by
  unfold State.presentationDue; split
  · rfl
  · dsimp only; split; · rfl
    split; exacts [rfl, State.placeEgress_now _ _]
@[simp] theorem State.presentationDue_resetPin (s : State) : (s.presentationDue).resetPin = s.resetPin := by
  unfold State.presentationDue; split
  · rfl
  · dsimp only; split; · rfl
    split; exacts [rfl, State.placeEgress_resetPin _ _]
@[simp] theorem State.presentationDue_spanExp (s : State) : (s.presentationDue).spanExp = s.spanExp := by
  unfold State.presentationDue; split
  · rfl
  · dsimp only; split; · rfl
    split; exacts [rfl, State.placeEgress_spanExp _ _]
@[simp] theorem State.presentationDue_identity (s : State) : (s.presentationDue).identity = s.identity := by
  unfold State.presentationDue; split
  · rfl
  · dsimp only; split; · rfl
    split; exacts [rfl, State.placeEgress_identity _ _]
@[simp] theorem State.presentationDue_member (s : State) : (s.presentationDue).member = s.member := by
  unfold State.presentationDue; split
  · rfl
  · dsimp only; split; · rfl
    split; exacts [rfl, State.placeEgress_member _ _]
@[simp] theorem State.presentationDue_ingress (s : State) : (s.presentationDue).ingress = s.ingress := by
  unfold State.presentationDue; split
  · rfl
  · dsimp only; split; · rfl
    split; exacts [rfl, State.placeEgress_ingress _ _]
@[simp] theorem State.presentationDue_held (s : State) : (s.presentationDue).held = s.held := by
  unfold State.presentationDue; split
  · rfl
  · dsimp only; split; · rfl
    split; exacts [rfl, State.placeEgress_held _ _]
@[simp] theorem State.presentationDue_tagReg (s : State) : (s.presentationDue).tagReg = s.tagReg := by
  unfold State.presentationDue; split
  · rfl
  · dsimp only; split; · rfl
    split; exacts [rfl, State.placeEgress_tagReg _ _]
@[simp] theorem State.presentationDue_windows (s : State) : (s.presentationDue).windows = s.windows := by
  unfold State.presentationDue; split
  · rfl
  · dsimp only; split; · rfl
    split; exacts [rfl, State.placeEgress_windows _ _]
@[simp] theorem State.presentationDue_classifier (s : State) : (s.presentationDue).classifier = s.classifier := by
  unfold State.presentationDue; split
  · rfl
  · dsimp only; split; · rfl
    split; exacts [rfl, State.placeEgress_classifier _ _]
@[simp] theorem State.presentationDue_reservations (s : State) : (s.presentationDue).reservations = s.reservations := by
  unfold State.presentationDue; split
  · rfl
  · dsimp only; split; · rfl
    split; exacts [rfl, State.placeEgress_reservations _ _]
@[simp] theorem State.presentationDue_mgmtQueue (s : State) : (s.presentationDue).mgmtQueue = s.mgmtQueue := by
  unfold State.presentationDue; split
  · rfl
  · dsimp only; split; · rfl
    split; exacts [rfl, State.placeEgress_mgmtQueue _ _]
@[simp] theorem State.presentationDue_mgmt (s : State) : (s.presentationDue).mgmt = s.mgmt := by
  unfold State.presentationDue; split
  · rfl
  · dsimp only; split; · rfl
    split; exacts [rfl, State.placeEgress_mgmt _ _]
@[simp] theorem State.presentationDue_entries (s : State) : (s.presentationDue).entries = s.entries := by
  unfold State.presentationDue; split
  · rfl
  · dsimp only; split; · rfl
    split; exacts [rfl, State.placeEgress_entries _ _]
@[simp] theorem State.presentationDue_tracker (s : State) : (s.presentationDue).tracker = s.tracker := by
  unfold State.presentationDue; split
  · rfl
  · dsimp only; split; · rfl
    split; exacts [rfl, State.placeEgress_tracker _ _]
@[simp] theorem State.presentationDue_branches (s : State) : (s.presentationDue).branches = s.branches := by
  unfold State.presentationDue; split
  · rfl
  · dsimp only; split; · rfl
    split; exacts [rfl, State.placeEgress_branches _ _]
@[simp] theorem State.presentationDue_interval (s : State) : (s.presentationDue).interval = s.interval := by
  unfold State.presentationDue; split
  · rfl
  · dsimp only; split; · rfl
    split; exacts [rfl, State.placeEgress_interval _ _]
@[simp] theorem State.presentationDue_choices (s : State) : (s.presentationDue).choices = s.choices := by
  unfold State.presentationDue; split
  · rfl
  · dsimp only; split; · rfl
    split; exacts [rfl, State.placeEgress_choices _ _]
@[simp] theorem State.presentationDue_pending (s : State) : (s.presentationDue).pending = s.pending := by
  unfold State.presentationDue; split
  · rfl
  · dsimp only; split; · rfl
    split; exacts [rfl, State.placeEgress_pending _ _]
@[simp] theorem State.presentationDue_br (s : State)  (b' : Branch) : (s.presentationDue).br b' = s.br b' := congrArg (·[b']) (State.presentationDue_branches s)
@[simp] theorem State.presentationDue_entry (s : State)  (e' : EntryIx) : (s.presentationDue).entry e' = s.entry e' := 
  congrArg (·[e']) (State.presentationDue_entries s)
/-- The frame of presentationDue as one equation. -/
theorem State.presentationDue_frame (s : State)  : s.presentationDue = { s with
    u := (s.presentationDue).u
    upstream := (s.presentationDue).upstream
    egress := (s.presentationDue).egress
    notices := (s.presentationDue).notices
    rePresentTimer := (s.presentationDue).rePresentTimer
    presentationOwed := (s.presentationDue).presentationOwed
    noticeUnit := (s.presentationDue).noticeUnit } :=
  State.ext_fields (State.presentationDue_now s)
    (State.presentationDue_resetPin s)
    (State.presentationDue_spanExp s)
    (State.presentationDue_identity s)
    (State.presentationDue_member s) rfl rfl (State.presentationDue_ingress s)
    (State.presentationDue_held s)
    (State.presentationDue_tagReg s)
    (State.presentationDue_windows s)
    (State.presentationDue_classifier s) rfl (State.presentationDue_reservations s)
    (State.presentationDue_mgmtQueue s)
    (State.presentationDue_mgmt s)
    (State.presentationDue_entries s)
    (State.presentationDue_tracker s)
    (State.presentationDue_branches s) rfl rfl rfl (State.presentationDue_interval s) rfl (State.presentationDue_choices s)
    (State.presentationDue_pending s)

/-! ### joinNotice -/

@[simp] theorem State.joinNotice_now (s : State) (n : NoticeBody) : (s.joinNotice n).now = s.now := by unfold State.joinNotice; split; exacts [State.presentationDue_now _, rfl]
@[simp] theorem State.joinNotice_resetPin (s : State) (n : NoticeBody) : (s.joinNotice n).resetPin = s.resetPin := by unfold State.joinNotice; split; exacts [State.presentationDue_resetPin _, rfl]
@[simp] theorem State.joinNotice_spanExp (s : State) (n : NoticeBody) : (s.joinNotice n).spanExp = s.spanExp := by unfold State.joinNotice; split; exacts [State.presentationDue_spanExp _, rfl]
@[simp] theorem State.joinNotice_identity (s : State) (n : NoticeBody) : (s.joinNotice n).identity = s.identity := by unfold State.joinNotice; split; exacts [State.presentationDue_identity _, rfl]
@[simp] theorem State.joinNotice_member (s : State) (n : NoticeBody) : (s.joinNotice n).member = s.member := by unfold State.joinNotice; split; exacts [State.presentationDue_member _, rfl]
@[simp] theorem State.joinNotice_ingress (s : State) (n : NoticeBody) : (s.joinNotice n).ingress = s.ingress := by unfold State.joinNotice; split; exacts [State.presentationDue_ingress _, rfl]
@[simp] theorem State.joinNotice_held (s : State) (n : NoticeBody) : (s.joinNotice n).held = s.held := by unfold State.joinNotice; split; exacts [State.presentationDue_held _, rfl]
@[simp] theorem State.joinNotice_tagReg (s : State) (n : NoticeBody) : (s.joinNotice n).tagReg = s.tagReg := by unfold State.joinNotice; split; exacts [State.presentationDue_tagReg _, rfl]
@[simp] theorem State.joinNotice_windows (s : State) (n : NoticeBody) : (s.joinNotice n).windows = s.windows := by unfold State.joinNotice; split; exacts [State.presentationDue_windows _, rfl]
@[simp] theorem State.joinNotice_classifier (s : State) (n : NoticeBody) : (s.joinNotice n).classifier = s.classifier := by unfold State.joinNotice; split; exacts [State.presentationDue_classifier _, rfl]
@[simp] theorem State.joinNotice_reservations (s : State) (n : NoticeBody) : (s.joinNotice n).reservations = s.reservations := by unfold State.joinNotice; split; exacts [State.presentationDue_reservations _, rfl]
@[simp] theorem State.joinNotice_mgmtQueue (s : State) (n : NoticeBody) : (s.joinNotice n).mgmtQueue = s.mgmtQueue := by unfold State.joinNotice; split; exacts [State.presentationDue_mgmtQueue _, rfl]
@[simp] theorem State.joinNotice_mgmt (s : State) (n : NoticeBody) : (s.joinNotice n).mgmt = s.mgmt := by unfold State.joinNotice; split; exacts [State.presentationDue_mgmt _, rfl]
@[simp] theorem State.joinNotice_entries (s : State) (n : NoticeBody) : (s.joinNotice n).entries = s.entries := by unfold State.joinNotice; split; exacts [State.presentationDue_entries _, rfl]
@[simp] theorem State.joinNotice_tracker (s : State) (n : NoticeBody) : (s.joinNotice n).tracker = s.tracker := by unfold State.joinNotice; split; exacts [State.presentationDue_tracker _, rfl]
@[simp] theorem State.joinNotice_branches (s : State) (n : NoticeBody) : (s.joinNotice n).branches = s.branches := by unfold State.joinNotice; split; exacts [State.presentationDue_branches _, rfl]
@[simp] theorem State.joinNotice_interval (s : State) (n : NoticeBody) : (s.joinNotice n).interval = s.interval := by unfold State.joinNotice; split; exacts [State.presentationDue_interval _, rfl]
@[simp] theorem State.joinNotice_choices (s : State) (n : NoticeBody) : (s.joinNotice n).choices = s.choices := by unfold State.joinNotice; split; exacts [State.presentationDue_choices _, rfl]
@[simp] theorem State.joinNotice_pending (s : State) (n : NoticeBody) : (s.joinNotice n).pending = s.pending := by unfold State.joinNotice; split; exacts [State.presentationDue_pending _, rfl]
@[simp] theorem State.joinNotice_br (s : State) (n : NoticeBody) (b' : Branch) : (s.joinNotice n).br b' = s.br b' := congrArg (·[b']) (State.joinNotice_branches s n)
@[simp] theorem State.joinNotice_entry (s : State) (n : NoticeBody) (e' : EntryIx) : (s.joinNotice n).entry e' = s.entry e' := 
  congrArg (·[e']) (State.joinNotice_entries s n)
/-- The frame of joinNotice as one equation. -/
theorem State.joinNotice_frame (s : State) (n : NoticeBody) : s.joinNotice n = { s with
    u := (s.joinNotice n).u
    upstream := (s.joinNotice n).upstream
    egress := (s.joinNotice n).egress
    notices := (s.joinNotice n).notices
    rePresentTimer := (s.joinNotice n).rePresentTimer
    presentationOwed := (s.joinNotice n).presentationOwed
    noticeUnit := (s.joinNotice n).noticeUnit } :=
  State.ext_fields (State.joinNotice_now s n)
    (State.joinNotice_resetPin s n)
    (State.joinNotice_spanExp s n)
    (State.joinNotice_identity s n)
    (State.joinNotice_member s n) rfl rfl (State.joinNotice_ingress s n)
    (State.joinNotice_held s n)
    (State.joinNotice_tagReg s n)
    (State.joinNotice_windows s n)
    (State.joinNotice_classifier s n) rfl (State.joinNotice_reservations s n)
    (State.joinNotice_mgmtQueue s n)
    (State.joinNotice_mgmt s n)
    (State.joinNotice_entries s n)
    (State.joinNotice_tracker s n)
    (State.joinNotice_branches s n) rfl rfl rfl (State.joinNotice_interval s n) rfl (State.joinNotice_choices s n)
    (State.joinNotice_pending s n)

/-! ### mergeNotice -/

@[simp] theorem State.mergeNotice_now (s : State) (src : Source) (cs : CauseSet) : (s.mergeNotice src cs).now = s.now := rfl
@[simp] theorem State.mergeNotice_resetPin (s : State) (src : Source) (cs : CauseSet) : (s.mergeNotice src cs).resetPin = s.resetPin := rfl
@[simp] theorem State.mergeNotice_spanExp (s : State) (src : Source) (cs : CauseSet) : (s.mergeNotice src cs).spanExp = s.spanExp := rfl
@[simp] theorem State.mergeNotice_identity (s : State) (src : Source) (cs : CauseSet) : (s.mergeNotice src cs).identity = s.identity := rfl
@[simp] theorem State.mergeNotice_member (s : State) (src : Source) (cs : CauseSet) : (s.mergeNotice src cs).member = s.member := rfl
@[simp] theorem State.mergeNotice_u (s : State) (src : Source) (cs : CauseSet) : (s.mergeNotice src cs).u = s.u := rfl
@[simp] theorem State.mergeNotice_upstream (s : State) (src : Source) (cs : CauseSet) : (s.mergeNotice src cs).upstream = s.upstream := rfl
@[simp] theorem State.mergeNotice_ingress (s : State) (src : Source) (cs : CauseSet) : (s.mergeNotice src cs).ingress = s.ingress := rfl
@[simp] theorem State.mergeNotice_held (s : State) (src : Source) (cs : CauseSet) : (s.mergeNotice src cs).held = s.held := rfl
@[simp] theorem State.mergeNotice_tagReg (s : State) (src : Source) (cs : CauseSet) : (s.mergeNotice src cs).tagReg = s.tagReg := rfl
@[simp] theorem State.mergeNotice_windows (s : State) (src : Source) (cs : CauseSet) : (s.mergeNotice src cs).windows = s.windows := rfl
@[simp] theorem State.mergeNotice_classifier (s : State) (src : Source) (cs : CauseSet) : (s.mergeNotice src cs).classifier = s.classifier := rfl
@[simp] theorem State.mergeNotice_egress (s : State) (src : Source) (cs : CauseSet) : (s.mergeNotice src cs).egress = s.egress := rfl
@[simp] theorem State.mergeNotice_reservations (s : State) (src : Source) (cs : CauseSet) : (s.mergeNotice src cs).reservations = s.reservations := rfl
@[simp] theorem State.mergeNotice_mgmtQueue (s : State) (src : Source) (cs : CauseSet) : (s.mergeNotice src cs).mgmtQueue = s.mgmtQueue := rfl
@[simp] theorem State.mergeNotice_mgmt (s : State) (src : Source) (cs : CauseSet) : (s.mergeNotice src cs).mgmt = s.mgmt := rfl
@[simp] theorem State.mergeNotice_entries (s : State) (src : Source) (cs : CauseSet) : (s.mergeNotice src cs).entries = s.entries := rfl
@[simp] theorem State.mergeNotice_tracker (s : State) (src : Source) (cs : CauseSet) : (s.mergeNotice src cs).tracker = s.tracker := rfl
@[simp] theorem State.mergeNotice_branches (s : State) (src : Source) (cs : CauseSet) : (s.mergeNotice src cs).branches = s.branches := rfl
@[simp] theorem State.mergeNotice_rePresentTimer (s : State) (src : Source) (cs : CauseSet) : (s.mergeNotice src cs).rePresentTimer = s.rePresentTimer := rfl
@[simp] theorem State.mergeNotice_presentationOwed (s : State) (src : Source) (cs : CauseSet) : (s.mergeNotice src cs).presentationOwed = s.presentationOwed := rfl
@[simp] theorem State.mergeNotice_interval (s : State) (src : Source) (cs : CauseSet) : (s.mergeNotice src cs).interval = s.interval := rfl
@[simp] theorem State.mergeNotice_choices (s : State) (src : Source) (cs : CauseSet) : (s.mergeNotice src cs).choices = s.choices := rfl
@[simp] theorem State.mergeNotice_pending (s : State) (src : Source) (cs : CauseSet) : (s.mergeNotice src cs).pending = s.pending := rfl
@[simp] theorem State.mergeNotice_br (s : State) (src : Source) (cs : CauseSet) (b' : Branch) : (s.mergeNotice src cs).br b' = s.br b' := congrArg (·[b']) (State.mergeNotice_branches s src cs)
@[simp] theorem State.mergeNotice_entry (s : State) (src : Source) (cs : CauseSet) (e' : EntryIx) : (s.mergeNotice src cs).entry e' = s.entry e' := 
  congrArg (·[e']) (State.mergeNotice_entries s src cs)

/-! ### raise -/

@[simp] theorem State.raise_now (s : State) (c : Cause) : (s.raise c).now = s.now := by unfold State.raise; split; exacts [rfl, State.joinNotice_now _ _]
@[simp] theorem State.raise_resetPin (s : State) (c : Cause) : (s.raise c).resetPin = s.resetPin := by unfold State.raise; split; exacts [rfl, State.joinNotice_resetPin _ _]
@[simp] theorem State.raise_spanExp (s : State) (c : Cause) : (s.raise c).spanExp = s.spanExp := by unfold State.raise; split; exacts [rfl, State.joinNotice_spanExp _ _]
@[simp] theorem State.raise_identity (s : State) (c : Cause) : (s.raise c).identity = s.identity := by unfold State.raise; split; exacts [rfl, State.joinNotice_identity _ _]
@[simp] theorem State.raise_member (s : State) (c : Cause) : (s.raise c).member = s.member := by unfold State.raise; split; exacts [rfl, State.joinNotice_member _ _]
@[simp] theorem State.raise_ingress (s : State) (c : Cause) : (s.raise c).ingress = s.ingress := by unfold State.raise; split; exacts [rfl, State.joinNotice_ingress _ _]
@[simp] theorem State.raise_held (s : State) (c : Cause) : (s.raise c).held = s.held := by unfold State.raise; split; exacts [rfl, State.joinNotice_held _ _]
@[simp] theorem State.raise_tagReg (s : State) (c : Cause) : (s.raise c).tagReg = s.tagReg := by unfold State.raise; split; exacts [rfl, State.joinNotice_tagReg _ _]
@[simp] theorem State.raise_windows (s : State) (c : Cause) : (s.raise c).windows = s.windows := by unfold State.raise; split; exacts [rfl, State.joinNotice_windows _ _]
@[simp] theorem State.raise_classifier (s : State) (c : Cause) : (s.raise c).classifier = s.classifier := by unfold State.raise; split; exacts [rfl, State.joinNotice_classifier _ _]
@[simp] theorem State.raise_reservations (s : State) (c : Cause) : (s.raise c).reservations = s.reservations := by unfold State.raise; split; exacts [rfl, State.joinNotice_reservations _ _]
@[simp] theorem State.raise_mgmtQueue (s : State) (c : Cause) : (s.raise c).mgmtQueue = s.mgmtQueue := by unfold State.raise; split; exacts [rfl, State.joinNotice_mgmtQueue _ _]
@[simp] theorem State.raise_mgmt (s : State) (c : Cause) : (s.raise c).mgmt = s.mgmt := by unfold State.raise; split; exacts [rfl, State.joinNotice_mgmt _ _]
@[simp] theorem State.raise_entries (s : State) (c : Cause) : (s.raise c).entries = s.entries := by unfold State.raise; split; exacts [rfl, State.joinNotice_entries _ _]
@[simp] theorem State.raise_tracker (s : State) (c : Cause) : (s.raise c).tracker = s.tracker := by unfold State.raise; split; exacts [rfl, State.joinNotice_tracker _ _]
@[simp] theorem State.raise_branches (s : State) (c : Cause) : (s.raise c).branches = s.branches := by unfold State.raise; split; exacts [rfl, State.joinNotice_branches _ _]
@[simp] theorem State.raise_interval (s : State) (c : Cause) : (s.raise c).interval = s.interval := by unfold State.raise; split; exacts [rfl, State.joinNotice_interval _ _]
@[simp] theorem State.raise_choices (s : State) (c : Cause) : (s.raise c).choices = s.choices := by unfold State.raise; split; exacts [rfl, State.joinNotice_choices _ _]
@[simp] theorem State.raise_pending (s : State) (c : Cause) : (s.raise c).pending = s.pending := by unfold State.raise; split; exacts [rfl, State.joinNotice_pending _ _]
@[simp] theorem State.raise_br (s : State) (c : Cause) (b' : Branch) : (s.raise c).br b' = s.br b' := congrArg (·[b']) (State.raise_branches s c)
@[simp] theorem State.raise_entry (s : State) (c : Cause) (e' : EntryIx) : (s.raise c).entry e' = s.entry e' := 
  congrArg (·[e']) (State.raise_entries s c)
/-- The frame of raise as one equation. -/
theorem State.raise_frame (s : State) (c : Cause) : s.raise c = { s with
    u := (s.raise c).u
    upstream := (s.raise c).upstream
    egress := (s.raise c).egress
    notices := (s.raise c).notices
    rePresentTimer := (s.raise c).rePresentTimer
    presentationOwed := (s.raise c).presentationOwed
    noticeUnit := (s.raise c).noticeUnit } :=
  State.ext_fields (State.raise_now s c)
    (State.raise_resetPin s c)
    (State.raise_spanExp s c)
    (State.raise_identity s c)
    (State.raise_member s c) rfl rfl (State.raise_ingress s c)
    (State.raise_held s c)
    (State.raise_tagReg s c)
    (State.raise_windows s c)
    (State.raise_classifier s c) rfl (State.raise_reservations s c)
    (State.raise_mgmtQueue s c)
    (State.raise_mgmt s c)
    (State.raise_entries s c)
    (State.raise_tracker s c)
    (State.raise_branches s c) rfl rfl rfl (State.raise_interval s c) rfl (State.raise_choices s c)
    (State.raise_pending s c)

/-! ### raiseEnumIf -/

@[simp] theorem State.raiseEnumIf_now (s : State) (w : Bool) (b : Branch) : (s.raiseEnumIf w b).now = s.now := by cases w; exacts [rfl, State.raise_now s _]
@[simp] theorem State.raiseEnumIf_resetPin (s : State) (w : Bool) (b : Branch) : (s.raiseEnumIf w b).resetPin = s.resetPin := by cases w; exacts [rfl, State.raise_resetPin s _]
@[simp] theorem State.raiseEnumIf_spanExp (s : State) (w : Bool) (b : Branch) : (s.raiseEnumIf w b).spanExp = s.spanExp := by cases w; exacts [rfl, State.raise_spanExp s _]
@[simp] theorem State.raiseEnumIf_identity (s : State) (w : Bool) (b : Branch) : (s.raiseEnumIf w b).identity = s.identity := by cases w; exacts [rfl, State.raise_identity s _]
@[simp] theorem State.raiseEnumIf_member (s : State) (w : Bool) (b : Branch) : (s.raiseEnumIf w b).member = s.member := by cases w; exacts [rfl, State.raise_member s _]
@[simp] theorem State.raiseEnumIf_ingress (s : State) (w : Bool) (b : Branch) : (s.raiseEnumIf w b).ingress = s.ingress := by cases w; exacts [rfl, State.raise_ingress s _]
@[simp] theorem State.raiseEnumIf_held (s : State) (w : Bool) (b : Branch) : (s.raiseEnumIf w b).held = s.held := by cases w; exacts [rfl, State.raise_held s _]
@[simp] theorem State.raiseEnumIf_tagReg (s : State) (w : Bool) (b : Branch) : (s.raiseEnumIf w b).tagReg = s.tagReg := by cases w; exacts [rfl, State.raise_tagReg s _]
@[simp] theorem State.raiseEnumIf_windows (s : State) (w : Bool) (b : Branch) : (s.raiseEnumIf w b).windows = s.windows := by cases w; exacts [rfl, State.raise_windows s _]
@[simp] theorem State.raiseEnumIf_classifier (s : State) (w : Bool) (b : Branch) : (s.raiseEnumIf w b).classifier = s.classifier := by cases w; exacts [rfl, State.raise_classifier s _]
@[simp] theorem State.raiseEnumIf_reservations (s : State) (w : Bool) (b : Branch) : (s.raiseEnumIf w b).reservations = s.reservations := by cases w; exacts [rfl, State.raise_reservations s _]
@[simp] theorem State.raiseEnumIf_mgmtQueue (s : State) (w : Bool) (b : Branch) : (s.raiseEnumIf w b).mgmtQueue = s.mgmtQueue := by cases w; exacts [rfl, State.raise_mgmtQueue s _]
@[simp] theorem State.raiseEnumIf_mgmt (s : State) (w : Bool) (b : Branch) : (s.raiseEnumIf w b).mgmt = s.mgmt := by cases w; exacts [rfl, State.raise_mgmt s _]
@[simp] theorem State.raiseEnumIf_entries (s : State) (w : Bool) (b : Branch) : (s.raiseEnumIf w b).entries = s.entries := by cases w; exacts [rfl, State.raise_entries s _]
@[simp] theorem State.raiseEnumIf_tracker (s : State) (w : Bool) (b : Branch) : (s.raiseEnumIf w b).tracker = s.tracker := by cases w; exacts [rfl, State.raise_tracker s _]
@[simp] theorem State.raiseEnumIf_branches (s : State) (w : Bool) (b : Branch) : (s.raiseEnumIf w b).branches = s.branches := by cases w; exacts [rfl, State.raise_branches s _]
@[simp] theorem State.raiseEnumIf_interval (s : State) (w : Bool) (b : Branch) : (s.raiseEnumIf w b).interval = s.interval := by cases w; exacts [rfl, State.raise_interval s _]
@[simp] theorem State.raiseEnumIf_choices (s : State) (w : Bool) (b : Branch) : (s.raiseEnumIf w b).choices = s.choices := by cases w; exacts [rfl, State.raise_choices s _]
@[simp] theorem State.raiseEnumIf_pending (s : State) (w : Bool) (b : Branch) : (s.raiseEnumIf w b).pending = s.pending := by cases w; exacts [rfl, State.raise_pending s _]
@[simp] theorem State.raiseEnumIf_br (s : State) (w : Bool) (b : Branch) (b' : Branch) : (s.raiseEnumIf w b).br b' = s.br b' := congrArg (·[b']) (State.raiseEnumIf_branches s w b)
@[simp] theorem State.raiseEnumIf_entry (s : State) (w : Bool) (b : Branch) (e' : EntryIx) : (s.raiseEnumIf w b).entry e' = s.entry e' := 
  congrArg (·[e']) (State.raiseEnumIf_entries s w b)
/-- The frame of raiseEnumIf as one equation. -/
theorem State.raiseEnumIf_frame (s : State) (w : Bool) (b : Branch) : s.raiseEnumIf w b = { s with
    u := (s.raiseEnumIf w b).u
    upstream := (s.raiseEnumIf w b).upstream
    egress := (s.raiseEnumIf w b).egress
    notices := (s.raiseEnumIf w b).notices
    rePresentTimer := (s.raiseEnumIf w b).rePresentTimer
    presentationOwed := (s.raiseEnumIf w b).presentationOwed
    noticeUnit := (s.raiseEnumIf w b).noticeUnit } :=
  State.ext_fields (State.raiseEnumIf_now s w b)
    (State.raiseEnumIf_resetPin s w b)
    (State.raiseEnumIf_spanExp s w b)
    (State.raiseEnumIf_identity s w b)
    (State.raiseEnumIf_member s w b) rfl rfl (State.raiseEnumIf_ingress s w b)
    (State.raiseEnumIf_held s w b)
    (State.raiseEnumIf_tagReg s w b)
    (State.raiseEnumIf_windows s w b)
    (State.raiseEnumIf_classifier s w b) rfl (State.raiseEnumIf_reservations s w b)
    (State.raiseEnumIf_mgmtQueue s w b)
    (State.raiseEnumIf_mgmt s w b)
    (State.raiseEnumIf_entries s w b)
    (State.raiseEnumIf_tracker s w b)
    (State.raiseEnumIf_branches s w b) rfl rfl rfl (State.raiseEnumIf_interval s w b) rfl (State.raiseEnumIf_choices s w b)
    (State.raiseEnumIf_pending s w b)

/-! ### afterRemoval -/

@[simp] theorem State.afterRemoval_now (s : State) (kept : List Notice) (g : Bool) : (s.afterRemoval kept g).now = s.now := by
  unfold State.afterRemoval
  split; · rfl
  split; exacts [State.presentationDue_now _, rfl]
@[simp] theorem State.afterRemoval_resetPin (s : State) (kept : List Notice) (g : Bool) : (s.afterRemoval kept g).resetPin = s.resetPin := by
  unfold State.afterRemoval
  split; · rfl
  split; exacts [State.presentationDue_resetPin _, rfl]
@[simp] theorem State.afterRemoval_spanExp (s : State) (kept : List Notice) (g : Bool) : (s.afterRemoval kept g).spanExp = s.spanExp := by
  unfold State.afterRemoval
  split; · rfl
  split; exacts [State.presentationDue_spanExp _, rfl]
@[simp] theorem State.afterRemoval_identity (s : State) (kept : List Notice) (g : Bool) : (s.afterRemoval kept g).identity = s.identity := by
  unfold State.afterRemoval
  split; · rfl
  split; exacts [State.presentationDue_identity _, rfl]
@[simp] theorem State.afterRemoval_member (s : State) (kept : List Notice) (g : Bool) : (s.afterRemoval kept g).member = s.member := by
  unfold State.afterRemoval
  split; · rfl
  split; exacts [State.presentationDue_member _, rfl]
@[simp] theorem State.afterRemoval_ingress (s : State) (kept : List Notice) (g : Bool) : (s.afterRemoval kept g).ingress = s.ingress := by
  unfold State.afterRemoval
  split; · rfl
  split; exacts [State.presentationDue_ingress _, rfl]
@[simp] theorem State.afterRemoval_held (s : State) (kept : List Notice) (g : Bool) : (s.afterRemoval kept g).held = s.held := by
  unfold State.afterRemoval
  split; · rfl
  split; exacts [State.presentationDue_held _, rfl]
@[simp] theorem State.afterRemoval_tagReg (s : State) (kept : List Notice) (g : Bool) : (s.afterRemoval kept g).tagReg = s.tagReg := by
  unfold State.afterRemoval
  split; · rfl
  split; exacts [State.presentationDue_tagReg _, rfl]
@[simp] theorem State.afterRemoval_windows (s : State) (kept : List Notice) (g : Bool) : (s.afterRemoval kept g).windows = s.windows := by
  unfold State.afterRemoval
  split; · rfl
  split; exacts [State.presentationDue_windows _, rfl]
@[simp] theorem State.afterRemoval_classifier (s : State) (kept : List Notice) (g : Bool) : (s.afterRemoval kept g).classifier = s.classifier := by
  unfold State.afterRemoval
  split; · rfl
  split; exacts [State.presentationDue_classifier _, rfl]
@[simp] theorem State.afterRemoval_reservations (s : State) (kept : List Notice) (g : Bool) : (s.afterRemoval kept g).reservations = s.reservations := by
  unfold State.afterRemoval
  split; · rfl
  split; exacts [State.presentationDue_reservations _, rfl]
@[simp] theorem State.afterRemoval_mgmtQueue (s : State) (kept : List Notice) (g : Bool) : (s.afterRemoval kept g).mgmtQueue = s.mgmtQueue := by
  unfold State.afterRemoval
  split; · rfl
  split; exacts [State.presentationDue_mgmtQueue _, rfl]
@[simp] theorem State.afterRemoval_mgmt (s : State) (kept : List Notice) (g : Bool) : (s.afterRemoval kept g).mgmt = s.mgmt := by
  unfold State.afterRemoval
  split; · rfl
  split; exacts [State.presentationDue_mgmt _, rfl]
@[simp] theorem State.afterRemoval_entries (s : State) (kept : List Notice) (g : Bool) : (s.afterRemoval kept g).entries = s.entries := by
  unfold State.afterRemoval
  split; · rfl
  split; exacts [State.presentationDue_entries _, rfl]
@[simp] theorem State.afterRemoval_tracker (s : State) (kept : List Notice) (g : Bool) : (s.afterRemoval kept g).tracker = s.tracker := by
  unfold State.afterRemoval
  split; · rfl
  split; exacts [State.presentationDue_tracker _, rfl]
@[simp] theorem State.afterRemoval_branches (s : State) (kept : List Notice) (g : Bool) : (s.afterRemoval kept g).branches = s.branches := by
  unfold State.afterRemoval
  split; · rfl
  split; exacts [State.presentationDue_branches _, rfl]
@[simp] theorem State.afterRemoval_interval (s : State) (kept : List Notice) (g : Bool) : (s.afterRemoval kept g).interval = s.interval := by
  unfold State.afterRemoval
  split; · rfl
  split; exacts [State.presentationDue_interval _, rfl]
@[simp] theorem State.afterRemoval_choices (s : State) (kept : List Notice) (g : Bool) : (s.afterRemoval kept g).choices = s.choices := by
  unfold State.afterRemoval
  split; · rfl
  split; exacts [State.presentationDue_choices _, rfl]
@[simp] theorem State.afterRemoval_pending (s : State) (kept : List Notice) (g : Bool) : (s.afterRemoval kept g).pending = s.pending := by
  unfold State.afterRemoval
  split; · rfl
  split; exacts [State.presentationDue_pending _, rfl]
@[simp] theorem State.afterRemoval_br (s : State) (kept : List Notice) (g : Bool) (b' : Branch) : (s.afterRemoval kept g).br b' = s.br b' := congrArg (·[b']) (State.afterRemoval_branches s kept g)
@[simp] theorem State.afterRemoval_entry (s : State) (kept : List Notice) (g : Bool) (e' : EntryIx) : (s.afterRemoval kept g).entry e' = s.entry e' := 
  congrArg (·[e']) (State.afterRemoval_entries s kept g)
/-- The frame of afterRemoval as one equation. -/
theorem State.afterRemoval_frame (s : State) (kept : List Notice) (g : Bool) : s.afterRemoval kept g = { s with
    u := (s.afterRemoval kept g).u
    upstream := (s.afterRemoval kept g).upstream
    egress := (s.afterRemoval kept g).egress
    notices := (s.afterRemoval kept g).notices
    rePresentTimer := (s.afterRemoval kept g).rePresentTimer
    presentationOwed := (s.afterRemoval kept g).presentationOwed
    noticeUnit := (s.afterRemoval kept g).noticeUnit } :=
  State.ext_fields (State.afterRemoval_now s kept g)
    (State.afterRemoval_resetPin s kept g)
    (State.afterRemoval_spanExp s kept g)
    (State.afterRemoval_identity s kept g)
    (State.afterRemoval_member s kept g) rfl rfl (State.afterRemoval_ingress s kept g)
    (State.afterRemoval_held s kept g)
    (State.afterRemoval_tagReg s kept g)
    (State.afterRemoval_windows s kept g)
    (State.afterRemoval_classifier s kept g) rfl (State.afterRemoval_reservations s kept g)
    (State.afterRemoval_mgmtQueue s kept g)
    (State.afterRemoval_mgmt s kept g)
    (State.afterRemoval_entries s kept g)
    (State.afterRemoval_tracker s kept g)
    (State.afterRemoval_branches s kept g) rfl rfl rfl (State.afterRemoval_interval s kept g) rfl (State.afterRemoval_choices s kept g)
    (State.afterRemoval_pending s kept g)

/-! ### removeNotices -/

@[simp] theorem State.removeNotices_now (s : State) (gone : Source → Bool) : (s.removeNotices gone).now = s.now := by unfold State.removeNotices; split; exacts [rfl, State.afterRemoval_now _ _ _]
@[simp] theorem State.removeNotices_resetPin (s : State) (gone : Source → Bool) : (s.removeNotices gone).resetPin = s.resetPin := by unfold State.removeNotices; split; exacts [rfl, State.afterRemoval_resetPin _ _ _]
@[simp] theorem State.removeNotices_spanExp (s : State) (gone : Source → Bool) : (s.removeNotices gone).spanExp = s.spanExp := by unfold State.removeNotices; split; exacts [rfl, State.afterRemoval_spanExp _ _ _]
@[simp] theorem State.removeNotices_identity (s : State) (gone : Source → Bool) : (s.removeNotices gone).identity = s.identity := by unfold State.removeNotices; split; exacts [rfl, State.afterRemoval_identity _ _ _]
@[simp] theorem State.removeNotices_member (s : State) (gone : Source → Bool) : (s.removeNotices gone).member = s.member := by unfold State.removeNotices; split; exacts [rfl, State.afterRemoval_member _ _ _]
@[simp] theorem State.removeNotices_ingress (s : State) (gone : Source → Bool) : (s.removeNotices gone).ingress = s.ingress := by unfold State.removeNotices; split; exacts [rfl, State.afterRemoval_ingress _ _ _]
@[simp] theorem State.removeNotices_held (s : State) (gone : Source → Bool) : (s.removeNotices gone).held = s.held := by unfold State.removeNotices; split; exacts [rfl, State.afterRemoval_held _ _ _]
@[simp] theorem State.removeNotices_tagReg (s : State) (gone : Source → Bool) : (s.removeNotices gone).tagReg = s.tagReg := by unfold State.removeNotices; split; exacts [rfl, State.afterRemoval_tagReg _ _ _]
@[simp] theorem State.removeNotices_windows (s : State) (gone : Source → Bool) : (s.removeNotices gone).windows = s.windows := by unfold State.removeNotices; split; exacts [rfl, State.afterRemoval_windows _ _ _]
@[simp] theorem State.removeNotices_classifier (s : State) (gone : Source → Bool) : (s.removeNotices gone).classifier = s.classifier := by unfold State.removeNotices; split; exacts [rfl, State.afterRemoval_classifier _ _ _]
@[simp] theorem State.removeNotices_reservations (s : State) (gone : Source → Bool) : (s.removeNotices gone).reservations = s.reservations := by unfold State.removeNotices; split; exacts [rfl, State.afterRemoval_reservations _ _ _]
@[simp] theorem State.removeNotices_mgmtQueue (s : State) (gone : Source → Bool) : (s.removeNotices gone).mgmtQueue = s.mgmtQueue := by unfold State.removeNotices; split; exacts [rfl, State.afterRemoval_mgmtQueue _ _ _]
@[simp] theorem State.removeNotices_mgmt (s : State) (gone : Source → Bool) : (s.removeNotices gone).mgmt = s.mgmt := by unfold State.removeNotices; split; exacts [rfl, State.afterRemoval_mgmt _ _ _]
@[simp] theorem State.removeNotices_entries (s : State) (gone : Source → Bool) : (s.removeNotices gone).entries = s.entries := by unfold State.removeNotices; split; exacts [rfl, State.afterRemoval_entries _ _ _]
@[simp] theorem State.removeNotices_tracker (s : State) (gone : Source → Bool) : (s.removeNotices gone).tracker = s.tracker := by unfold State.removeNotices; split; exacts [rfl, State.afterRemoval_tracker _ _ _]
@[simp] theorem State.removeNotices_branches (s : State) (gone : Source → Bool) : (s.removeNotices gone).branches = s.branches := by unfold State.removeNotices; split; exacts [rfl, State.afterRemoval_branches _ _ _]
@[simp] theorem State.removeNotices_interval (s : State) (gone : Source → Bool) : (s.removeNotices gone).interval = s.interval := by unfold State.removeNotices; split; exacts [rfl, State.afterRemoval_interval _ _ _]
@[simp] theorem State.removeNotices_choices (s : State) (gone : Source → Bool) : (s.removeNotices gone).choices = s.choices := by unfold State.removeNotices; split; exacts [rfl, State.afterRemoval_choices _ _ _]
@[simp] theorem State.removeNotices_pending (s : State) (gone : Source → Bool) : (s.removeNotices gone).pending = s.pending := by unfold State.removeNotices; split; exacts [rfl, State.afterRemoval_pending _ _ _]
@[simp] theorem State.removeNotices_br (s : State) (gone : Source → Bool) (b' : Branch) : (s.removeNotices gone).br b' = s.br b' := congrArg (·[b']) (State.removeNotices_branches s gone)
@[simp] theorem State.removeNotices_entry (s : State) (gone : Source → Bool) (e' : EntryIx) : (s.removeNotices gone).entry e' = s.entry e' := 
  congrArg (·[e']) (State.removeNotices_entries s gone)
/-- The frame of removeNotices as one equation. -/
theorem State.removeNotices_frame (s : State) (gone : Source → Bool) : s.removeNotices gone = { s with
    u := (s.removeNotices gone).u
    upstream := (s.removeNotices gone).upstream
    egress := (s.removeNotices gone).egress
    notices := (s.removeNotices gone).notices
    rePresentTimer := (s.removeNotices gone).rePresentTimer
    presentationOwed := (s.removeNotices gone).presentationOwed
    noticeUnit := (s.removeNotices gone).noticeUnit } :=
  State.ext_fields (State.removeNotices_now s gone)
    (State.removeNotices_resetPin s gone)
    (State.removeNotices_spanExp s gone)
    (State.removeNotices_identity s gone)
    (State.removeNotices_member s gone) rfl rfl (State.removeNotices_ingress s gone)
    (State.removeNotices_held s gone)
    (State.removeNotices_tagReg s gone)
    (State.removeNotices_windows s gone)
    (State.removeNotices_classifier s gone) rfl (State.removeNotices_reservations s gone)
    (State.removeNotices_mgmtQueue s gone)
    (State.removeNotices_mgmt s gone)
    (State.removeNotices_entries s gone)
    (State.removeNotices_tracker s gone)
    (State.removeNotices_branches s gone) rfl rfl rfl (State.removeNotices_interval s gone) rfl (State.removeNotices_choices s gone)
    (State.removeNotices_pending s gone)

/-! ### removeNoticesOf -/

@[simp] theorem State.removeNoticesOf_now (s : State) (b : Branch) (gone : Position → Bool) : (s.removeNoticesOf b gone).now = s.now := State.removeNotices_now _ _
@[simp] theorem State.removeNoticesOf_resetPin (s : State) (b : Branch) (gone : Position → Bool) : (s.removeNoticesOf b gone).resetPin = s.resetPin := State.removeNotices_resetPin _ _
@[simp] theorem State.removeNoticesOf_spanExp (s : State) (b : Branch) (gone : Position → Bool) : (s.removeNoticesOf b gone).spanExp = s.spanExp := State.removeNotices_spanExp _ _
@[simp] theorem State.removeNoticesOf_identity (s : State) (b : Branch) (gone : Position → Bool) : (s.removeNoticesOf b gone).identity = s.identity := State.removeNotices_identity _ _
@[simp] theorem State.removeNoticesOf_member (s : State) (b : Branch) (gone : Position → Bool) : (s.removeNoticesOf b gone).member = s.member := State.removeNotices_member _ _
@[simp] theorem State.removeNoticesOf_ingress (s : State) (b : Branch) (gone : Position → Bool) : (s.removeNoticesOf b gone).ingress = s.ingress := State.removeNotices_ingress _ _
@[simp] theorem State.removeNoticesOf_held (s : State) (b : Branch) (gone : Position → Bool) : (s.removeNoticesOf b gone).held = s.held := State.removeNotices_held _ _
@[simp] theorem State.removeNoticesOf_tagReg (s : State) (b : Branch) (gone : Position → Bool) : (s.removeNoticesOf b gone).tagReg = s.tagReg := State.removeNotices_tagReg _ _
@[simp] theorem State.removeNoticesOf_windows (s : State) (b : Branch) (gone : Position → Bool) : (s.removeNoticesOf b gone).windows = s.windows := State.removeNotices_windows _ _
@[simp] theorem State.removeNoticesOf_classifier (s : State) (b : Branch) (gone : Position → Bool) : (s.removeNoticesOf b gone).classifier = s.classifier := State.removeNotices_classifier _ _
@[simp] theorem State.removeNoticesOf_reservations (s : State) (b : Branch) (gone : Position → Bool) : (s.removeNoticesOf b gone).reservations = s.reservations := State.removeNotices_reservations _ _
@[simp] theorem State.removeNoticesOf_mgmtQueue (s : State) (b : Branch) (gone : Position → Bool) : (s.removeNoticesOf b gone).mgmtQueue = s.mgmtQueue := State.removeNotices_mgmtQueue _ _
@[simp] theorem State.removeNoticesOf_mgmt (s : State) (b : Branch) (gone : Position → Bool) : (s.removeNoticesOf b gone).mgmt = s.mgmt := State.removeNotices_mgmt _ _
@[simp] theorem State.removeNoticesOf_entries (s : State) (b : Branch) (gone : Position → Bool) : (s.removeNoticesOf b gone).entries = s.entries := State.removeNotices_entries _ _
@[simp] theorem State.removeNoticesOf_tracker (s : State) (b : Branch) (gone : Position → Bool) : (s.removeNoticesOf b gone).tracker = s.tracker := State.removeNotices_tracker _ _
@[simp] theorem State.removeNoticesOf_branches (s : State) (b : Branch) (gone : Position → Bool) : (s.removeNoticesOf b gone).branches = s.branches := State.removeNotices_branches _ _
@[simp] theorem State.removeNoticesOf_interval (s : State) (b : Branch) (gone : Position → Bool) : (s.removeNoticesOf b gone).interval = s.interval := State.removeNotices_interval _ _
@[simp] theorem State.removeNoticesOf_choices (s : State) (b : Branch) (gone : Position → Bool) : (s.removeNoticesOf b gone).choices = s.choices := State.removeNotices_choices _ _
@[simp] theorem State.removeNoticesOf_pending (s : State) (b : Branch) (gone : Position → Bool) : (s.removeNoticesOf b gone).pending = s.pending := State.removeNotices_pending _ _
@[simp] theorem State.removeNoticesOf_br (s : State) (b : Branch) (gone : Position → Bool) (b' : Branch) : (s.removeNoticesOf b gone).br b' = s.br b' := congrArg (·[b']) (State.removeNoticesOf_branches s b gone)
@[simp] theorem State.removeNoticesOf_entry (s : State) (b : Branch) (gone : Position → Bool) (e' : EntryIx) : (s.removeNoticesOf b gone).entry e' = s.entry e' := 
  congrArg (·[e']) (State.removeNoticesOf_entries s b gone)
/-- The frame of removeNoticesOf as one equation. -/
theorem State.removeNoticesOf_frame (s : State) (b : Branch) (gone : Position → Bool) : s.removeNoticesOf b gone = { s with
    u := (s.removeNoticesOf b gone).u
    upstream := (s.removeNoticesOf b gone).upstream
    egress := (s.removeNoticesOf b gone).egress
    notices := (s.removeNoticesOf b gone).notices
    rePresentTimer := (s.removeNoticesOf b gone).rePresentTimer
    presentationOwed := (s.removeNoticesOf b gone).presentationOwed
    noticeUnit := (s.removeNoticesOf b gone).noticeUnit } :=
  State.ext_fields (State.removeNoticesOf_now s b gone)
    (State.removeNoticesOf_resetPin s b gone)
    (State.removeNoticesOf_spanExp s b gone)
    (State.removeNoticesOf_identity s b gone)
    (State.removeNoticesOf_member s b gone) rfl rfl (State.removeNoticesOf_ingress s b gone)
    (State.removeNoticesOf_held s b gone)
    (State.removeNoticesOf_tagReg s b gone)
    (State.removeNoticesOf_windows s b gone)
    (State.removeNoticesOf_classifier s b gone) rfl (State.removeNoticesOf_reservations s b gone)
    (State.removeNoticesOf_mgmtQueue s b gone)
    (State.removeNoticesOf_mgmt s b gone)
    (State.removeNoticesOf_entries s b gone)
    (State.removeNoticesOf_tracker s b gone)
    (State.removeNoticesOf_branches s b gone) rfl rfl rfl (State.removeNoticesOf_interval s b gone) rfl (State.removeNoticesOf_choices s b gone)
    (State.removeNoticesOf_pending s b gone)

/-! ### judgeDrain -/

@[simp] theorem State.judgeDrain_now (s : State) (b : Branch) : (s.judgeDrain b).now = s.now := by
  unfold State.judgeDrain State.completeDrain; split
  · rw [State.hand_now]; rfl
  · rfl
@[simp] theorem State.judgeDrain_resetPin (s : State) (b : Branch) : (s.judgeDrain b).resetPin = s.resetPin := by
  unfold State.judgeDrain State.completeDrain; split
  · rw [State.hand_resetPin]; rfl
  · rfl
@[simp] theorem State.judgeDrain_spanExp (s : State) (b : Branch) : (s.judgeDrain b).spanExp = s.spanExp := by
  unfold State.judgeDrain State.completeDrain; split
  · rw [State.hand_spanExp]; rfl
  · rfl
@[simp] theorem State.judgeDrain_identity (s : State) (b : Branch) : (s.judgeDrain b).identity = s.identity := by
  unfold State.judgeDrain State.completeDrain; split
  · rw [State.hand_identity]; rfl
  · rfl
@[simp] theorem State.judgeDrain_member (s : State) (b : Branch) : (s.judgeDrain b).member = s.member := by
  unfold State.judgeDrain State.completeDrain; split
  · rw [State.hand_member]; rfl
  · rfl
@[simp] theorem State.judgeDrain_u (s : State) (b : Branch) : (s.judgeDrain b).u = s.u := by
  unfold State.judgeDrain State.completeDrain; split
  · rw [State.hand_u]; rfl
  · rfl
@[simp] theorem State.judgeDrain_upstream (s : State) (b : Branch) : (s.judgeDrain b).upstream = s.upstream := by
  unfold State.judgeDrain State.completeDrain; split
  · rw [State.hand_upstream]; rfl
  · rfl
@[simp] theorem State.judgeDrain_ingress (s : State) (b : Branch) : (s.judgeDrain b).ingress = s.ingress := by
  unfold State.judgeDrain State.completeDrain; split
  · rw [State.hand_ingress]; rfl
  · rfl
@[simp] theorem State.judgeDrain_held (s : State) (b : Branch) : (s.judgeDrain b).held = s.held := by
  unfold State.judgeDrain State.completeDrain; split
  · rw [State.hand_held]; rfl
  · rfl
@[simp] theorem State.judgeDrain_tagReg (s : State) (b : Branch) : (s.judgeDrain b).tagReg = s.tagReg := by
  unfold State.judgeDrain State.completeDrain; split
  · rw [State.hand_tagReg]; rfl
  · rfl
@[simp] theorem State.judgeDrain_windows (s : State) (b : Branch) : (s.judgeDrain b).windows = s.windows := by
  unfold State.judgeDrain State.completeDrain; split
  · rw [State.hand_windows]; rfl
  · rfl
@[simp] theorem State.judgeDrain_classifier (s : State) (b : Branch) : (s.judgeDrain b).classifier = s.classifier := by
  unfold State.judgeDrain State.completeDrain; split
  · rw [State.hand_classifier]; rfl
  · rfl
@[simp] theorem State.judgeDrain_egress (s : State) (b : Branch) : (s.judgeDrain b).egress = s.egress := by
  unfold State.judgeDrain State.completeDrain; split
  · rw [State.hand_egress]; rfl
  · rfl
@[simp] theorem State.judgeDrain_reservations (s : State) (b : Branch) : (s.judgeDrain b).reservations = s.reservations := by
  unfold State.judgeDrain State.completeDrain; split
  · rw [State.hand_reservations]; rfl
  · rfl
@[simp] theorem State.judgeDrain_mgmtQueue (s : State) (b : Branch) : (s.judgeDrain b).mgmtQueue = s.mgmtQueue := by
  unfold State.judgeDrain State.completeDrain; split
  · rw [State.hand_mgmtQueue]; rfl
  · rfl
@[simp] theorem State.judgeDrain_mgmt (s : State) (b : Branch) : (s.judgeDrain b).mgmt = s.mgmt := by
  unfold State.judgeDrain State.completeDrain; split
  · rw [State.hand_mgmt]; rfl
  · rfl
@[simp] theorem State.judgeDrain_notices (s : State) (b : Branch) : (s.judgeDrain b).notices = s.notices := by
  unfold State.judgeDrain State.completeDrain; split
  · rw [State.hand_notices]; rfl
  · rfl
@[simp] theorem State.judgeDrain_rePresentTimer (s : State) (b : Branch) : (s.judgeDrain b).rePresentTimer = s.rePresentTimer := by
  unfold State.judgeDrain State.completeDrain; split
  · rw [State.hand_rePresentTimer]; rfl
  · rfl
@[simp] theorem State.judgeDrain_presentationOwed (s : State) (b : Branch) : (s.judgeDrain b).presentationOwed = s.presentationOwed := by
  unfold State.judgeDrain State.completeDrain; split
  · rw [State.hand_presentationOwed]; rfl
  · rfl
@[simp] theorem State.judgeDrain_interval (s : State) (b : Branch) : (s.judgeDrain b).interval = s.interval := by
  unfold State.judgeDrain State.completeDrain; split
  · rw [State.hand_interval]; rfl
  · rfl
@[simp] theorem State.judgeDrain_noticeUnit (s : State) (b : Branch) : (s.judgeDrain b).noticeUnit = s.noticeUnit := by
  unfold State.judgeDrain State.completeDrain; split
  · rw [State.hand_noticeUnit]; rfl
  · rfl
@[simp] theorem State.judgeDrain_choices (s : State) (b : Branch) : (s.judgeDrain b).choices = s.choices := by
  unfold State.judgeDrain State.completeDrain; split
  · rw [State.hand_choices]; rfl
  · rfl
@[simp] theorem State.judgeDrain_pending (s : State) (b : Branch) : (s.judgeDrain b).pending = s.pending := by
  unfold State.judgeDrain State.completeDrain; split
  · rw [State.hand_pending]; rfl
  · rfl
/-- The frame of judgeDrain as one equation. -/
theorem State.judgeDrain_frame (s : State) (b : Branch) : s.judgeDrain b = { s with
    entries := (s.judgeDrain b).entries
    tracker := (s.judgeDrain b).tracker
    branches := (s.judgeDrain b).branches } :=
  State.ext_fields (State.judgeDrain_now s b)
    (State.judgeDrain_resetPin s b)
    (State.judgeDrain_spanExp s b)
    (State.judgeDrain_identity s b)
    (State.judgeDrain_member s b)
    (State.judgeDrain_u s b)
    (State.judgeDrain_upstream s b)
    (State.judgeDrain_ingress s b)
    (State.judgeDrain_held s b)
    (State.judgeDrain_tagReg s b)
    (State.judgeDrain_windows s b)
    (State.judgeDrain_classifier s b)
    (State.judgeDrain_egress s b)
    (State.judgeDrain_reservations s b)
    (State.judgeDrain_mgmtQueue s b)
    (State.judgeDrain_mgmt s b) rfl rfl rfl (State.judgeDrain_notices s b)
    (State.judgeDrain_rePresentTimer s b)
    (State.judgeDrain_presentationOwed s b)
    (State.judgeDrain_interval s b)
    (State.judgeDrain_noticeUnit s b)
    (State.judgeDrain_choices s b)
    (State.judgeDrain_pending s b)
end Sys2Proof.Machine
end

