-- ==== Sys2Proof/Laws/Replies.lean ====
section
/-!
SUPPORT. What the placing of egress frames, and the answering of requests, does to the fields it touches.
-/

namespace Sys2Proof.Machine

open Sys2Proof

/-! ### Placing one frame -/

/-- Placing a frame on the egress queue adds it at the tail. -/
@[simp] theorem State.placeEgress_egress (s : State) (f : EgressFrame) : (s.placeEgress f).egress = s.egress ++ [f] :=
  State.signalWakeU_egress _

/-- On a U link that is not QUIET no wake is signalled. -/
theorem State.signalWakeU_of_not_quiet (s : State) (h : s.u.port.link ≠ .quiet) : s.signalWakeU = s := by
  simp [State.signalWakeU, h]

/-- On a U link that is not QUIET, placing a frame changes the egress queue alone. -/
theorem State.placeEgress_of_not_quiet (s : State) (f : EgressFrame) (h : s.u.port.link ≠ .quiet) :
    s.placeEgress f = { s with egress := s.egress ++ [f] } :=
  State.signalWakeU_of_not_quiet _ h

/-- On a QUIET U link, placing a frame makes U train, and counts a wake. -/
theorem State.placeEgress_of_quiet (s : State) (f : EgressFrame) (h : s.u.port.link = .quiet) (hr : s.resetPin = false) :
    s.placeEgress f = { s with
      egress := s.egress ++ [f]
      u := { s.u with port := s.u.port.train s.now }
      upstream := { s.upstream with wakes := s.upstream.wakes + 1 } } := by
  simp [State.placeEgress, State.signalWakeU, State.trainU, State.trained, h, hr]

/-- A U link that is not QUIET is left as it was by the placing of a frame. -/
theorem State.placeEgress_u (s : State) (f : EgressFrame) (h : s.u.port.link ≠ .quiet) :
    (s.placeEgress f).u = s.u ∧ (s.placeEgress f).upstream = s.upstream := by
  simp [s.placeEgress_of_not_quiet f h]

/-! ### Answering -/

@[simp] theorem State.placeReply_egress (s : State) (t : UTag) (st : Status) (d : Byte) (ws : List Word) :
    (s.placeReply t st d ws).egress = s.egress ++ [.reply { tag := t, status := st, detail := d, data := ws }] :=
  State.placeEgress_egress _ _

@[simp] theorem State.placeReply_tagReg (s : State) (t : UTag) (st : Status) (d : Byte) (ws : List Word) :
    (s.placeReply t st d ws).tagReg = s.tagReg.filter (· ≠ t) :=
  State.placeEgress_tagReg _ _

@[simp] theorem State.placeReply_reservations (s : State) (t : UTag) (st : Status) (d : Byte) (ws : List Word) :
    (s.placeReply t st d ws).reservations = s.reservations - 1 :=
  State.placeEgress_reservations _ _

theorem State.placeReply_u (s : State) (t : UTag) (st : Status) (d : Byte) (ws : List Word)
    (h : s.u.port.link ≠ .quiet) :
    (s.placeReply t st d ws).u = s.u ∧ (s.placeReply t st d ws).upstream = s.upstream :=
  State.placeEgress_u _ _ h

/-- A frame that is no reply leaves the replies as they were; a reply joins them. -/
theorem State.placeEgress_replies (s : State) (f : EgressFrame) :
    (s.placeEgress f).replies = s.replies ++ if f.isReply then [f] else [] := by
  simp only [State.replies, State.placeEgress_egress, List.filter_append, List.filter_cons, List.filter_nil]

/-- What answering several requests does: the REPLYs go to the tail in the order given, their tags leave the register, and their
reservations are given back. -/
theorem State.answerAll_spec (hs : List ReqHeader) (st : Status) (s : State) :
    (s.answerAll hs st).egress = s.egress ++ repliesOf (hs.flatMap hdrTags) st ∧
      (s.answerAll hs st).tagReg = s.tagReg.filter (fun g => !(hs.flatMap hdrTags).contains g) ∧
      (s.answerAll hs st).reservations = s.reservations - (hs.flatMap hdrTags).length ∧
      (s.u.port.link ≠ .quiet → (s.answerAll hs st).u = s.u ∧ (s.answerAll hs st).upstream = s.upstream) := by
  induction hs generalizing s with
  | nil => simp [State.answerAll, repliesOf]
  | cons h hs ih =>
    obtain ⟨h1, h2, h3, h4⟩ := ih (s.answer h st)
    have e : s.answerAll (h :: hs) st = (s.answer h st).answerAll hs st := rfl
    rw [e, h1, h2, h3]
    cases h with
    | post => exact ⟨by simp [State.answer, hdrTags], by simp [State.answer, hdrTags], by simp [State.answer, hdrTags],
        fun hq => h4 hq⟩
    | tagged k t =>
      refine ⟨by simp [State.answer, hdrTags, repliesOf], ?_, ?_, fun hq => ?_⟩
      · simp only [State.answer, hdrTags, List.flatMap_cons, State.placeReply_tagReg, List.filter_filter]
        congr 1
        funext g
        simp [Bool.and_comm]
      · simp only [State.answer, hdrTags, List.flatMap_cons, State.placeReply_reservations, List.length_append,
          List.length_cons, List.length_nil]
        omega
      · have hu : (s.answer (.tagged k t) st).u = s.u := (s.placeReply_u t st 0 [] hq).1
        have hv : (s.answer (.tagged k t) st).upstream = s.upstream := (s.placeReply_u t st 0 [] hq).2
        have := h4 (by rw [hu]; exact hq)
        exact ⟨this.1.trans hu, this.2.trans hv⟩

/-- Every frame that answers several requests is a reply. -/
theorem repliesOf_filter (ts : List UTag) (st : Status) : (repliesOf ts st).filter EgressFrame.isReply = repliesOf ts st := by
  simp [repliesOf, EgressFrame.isReply]

/-! ### A happening that the spec leaves in open order -/

/-- Either order of the two doings. -/
theorem State.inOpenOrder_cases (replies notices : State → State) (s : State) :
    s.inOpenOrder replies notices = replies (notices { s with choices := s.choices + 1 }) ∨
      s.inOpenOrder replies notices = notices (replies { s with choices := s.choices + 1 }) := by
  unfold State.inOpenOrder
  dsimp only
  split
  · exact .inl rfl
  · exact .inr rfl

end Sys2Proof.Machine
end

