-- ==== Sys2Proof/Laws/Notices.lean ====
section
/-!
SUPPORT. What presenting, raising and removing do to the notice queue.
-/

namespace Sys2Proof.Machine

open Sys2Proof

@[simp] theorem Notice.present_source (n : Notice) : n.present.source = n.source := rfl

@[simp] theorem Notice.present_body (n : Notice) : n.present.body = n.body := rfl

@[simp] theorem Notice.merge_source (n : Notice) : n.merge.source = n.source := rfl

@[simp] theorem Notice.merge_body (n : Notice) : n.merge.body = n.body := rfl

@[simp] theorem Notice.addCauses_source (n : Notice) (c : CauseSet) : (n.addCauses c).source = n.source := by
  rcases n with ⟨b, m, p⟩
  cases b <;> rfl

/-- Everything a due presentation can do: with no notice nothing; else it is deferred, skipped or made (R154 to R157). -/
theorem State.presentationDue_nil (s : State) (h : s.notices = []) : s.presentationDue = s := by
  unfold State.presentationDue
  rw [h]

theorem State.presentationDue_deferred (s : State) (h : Notice) (rest : List Notice) (hn : s.notices = h :: rest)
    (hm : s.member = none) :
    s.presentationDue = { s with rePresentTimer := s.restartedTimer, presentationOwed := true } := by
  unfold State.presentationDue
  rw [hn]
  dsimp only
  rw [if_pos hm]

theorem State.presentationDue_skipped (s : State) (h : Notice) (rest : List Notice) (hn : s.notices = h :: rest)
    (hm : s.member ≠ none) (hf : s.noticeSlotFull = true) :
    s.presentationDue = { s with
      rePresentTimer := s.restartedTimer
      noticeUnit := { s.noticeUnit with skipped := s.noticeUnit.skipped + 1 } } := by
  unfold State.presentationDue
  rw [hn]
  dsimp only
  rw [if_neg hm]
  exact if_pos hf

theorem State.presentationDue_made (s : State) (h : Notice) (rest : List Notice) (hn : s.notices = h :: rest)
    (hm : s.member ≠ none) (hf : s.noticeSlotFull = false) :
    s.presentationDue = State.placeEgress (.attention (BitVec.ofNat 8 h.source.number)) { s with
      rePresentTimer := s.restartedTimer
      notices := h.present :: rest
      noticeUnit := { s.noticeUnit with presented := s.noticeUnit.presented + 1 } } := by
  unfold State.presentationDue
  rw [hn]
  dsimp only
  rw [if_neg hm]
  exact if_neg (by rw [State.noticeSlotFull] at hf ⊢; simpa using hf)

/-- The notice slot holds a frame exactly where the egress queue holds an ATTENTION (R176). -/
theorem State.noticeSlotFull_iff (s : State) : s.noticeSlotFull = true ↔ ∃ code, .attention code ∈ s.egress := by
  unfold State.noticeSlotFull
  rw [List.any_eq_true]
  constructor
  · rintro ⟨f, hf, h⟩
    cases f with
    | reply r => simp [EgressFrame.isReply] at h
    | attention c => exact ⟨c, hf⟩
  · rintro ⟨c, hc⟩
    exact ⟨_, hc, rfl⟩

/-- A presentation leaves the notices as they were, but that it may raise the head's presentation count. -/
theorem State.presentationDue_bodies (s : State) : s.presentationDue.notices.map Notice.body = s.notices.map Notice.body := by
  unfold State.presentationDue
  split
  · rfl
  · rename_i h rest hn
    dsimp only
    split
    · rfl
    · split
      · rfl
      · simp [hn]

/-- The sources of notices are those of their bodies. -/
theorem sources_of_bodies {l m : List Notice} (h : l.map Notice.body = m.map Notice.body) :
    l.map Notice.source = m.map Notice.source := by
  have f : Notice.source = (fun b => match b with | .self _ => Source.self | .attachment b p _ => .attachment b p) ∘
      Notice.body := rfl
  rw [f, ← List.map_map, ← List.map_map, h]

/-- A presentation leaves the sources of the notices as they were. -/
@[simp] theorem State.presentationDue_sources (s : State) :
    s.presentationDue.notices.map Notice.source = s.notices.map Notice.source :=
  sources_of_bodies s.presentationDue_bodies

/-- Which sources have notices is seen in the list of sources. -/
theorem State.hasNotice_iff (s : State) (src : Source) : s.hasNotice src = true ↔ src ∈ s.notices.map Notice.source := by
  simp [State.hasNotice]

/-- Queues with the same sources have notices of the same sources. -/
theorem State.hasNotice_congr {s t : State} (h : s.notices.map Notice.source = t.notices.map Notice.source)
    (src : Source) : s.hasNotice src = t.hasNotice src := by
  rw [Bool.eq_iff_iff, State.hasNotice_iff, State.hasNotice_iff, h]

@[simp] theorem State.presentationDue_hasNotice (s : State) (src : Source) :
    s.presentationDue.hasNotice src = s.hasNotice src :=
  State.hasNotice_congr (by simp) src

/-- The cause set of the first self notice among bodies. -/
def causesOf : List NoticeBody → CauseSet
  | [] => 0
  | .self cs :: _ => cs
  | .attachment _ _ _ :: rest => causesOf rest

/-- The self cause set is read from the bodies of the notices. -/
theorem State.selfCauses_eq (s : State) : s.selfCauses = causesOf (s.notices.map Notice.body) := by
  unfold State.selfCauses
  induction s.notices with
  | nil => rfl
  | cons n l ih =>
    rcases n with ⟨b, m, p⟩
    cases b with
    | self cs => simp [Notice.source, causesOf]
    | attachment b p c => simpa [Notice.source, causesOf] using ih

@[simp] theorem State.presentationDue_selfCauses (s : State) : s.presentationDue.selfCauses = s.selfCauses := by
  rw [State.selfCauses_eq, State.selfCauses_eq, State.presentationDue_bodies]

/-- Without a self notice the cause set is empty. -/
theorem State.selfCauses_of_none (s : State) (h : s.hasNotice .self = false) : s.selfCauses = 0 := by
  unfold State.selfCauses
  have : s.notices.find? (fun n => n.source == .self) = none := by
    rw [List.find?_eq_none]
    intro n hn
    have := List.any_eq_false.1 h n hn
    simpa using this
  rw [this]

/-- Joining puts a notice behind those that stand, and changes no body. -/
theorem State.joinNotice_bodies (s : State) (b : NoticeBody) :
    (s.joinNotice b).notices.map Notice.body = s.notices.map Notice.body ++ [b] := by
  unfold State.joinNotice
  dsimp only
  split
  · rw [State.presentationDue_bodies]; simp
  · simp

/-- The cause set of bodies with one more at the end. -/
theorem causesOf_append (l : List NoticeBody) (m : List NoticeBody) (h : ∀ cs, .self cs ∉ l) :
    causesOf (l ++ m) = causesOf m := by
  induction l with
  | nil => rfl
  | cons b l ih =>
    cases b with
    | self cs => exact absurd (List.mem_cons_self) (h cs)
    | attachment b p c => exact ih fun cs hc => h cs (List.mem_cons_of_mem _ hc)

/-- Raising a cause puts it in the self cause set (R153). -/
theorem State.raise_selfCauses (c : Cause) (s : State) : (s.raise c).selfCauses = s.selfCauses ||| c.toSet := by
  unfold State.raise
  split
  · rename_i h
    have hm : Source.self ∈ s.notices.map Notice.source := (s.hasNotice_iff _).1 h
    rw [State.selfCauses_eq, State.selfCauses_eq]
    unfold State.mergeNotice
    dsimp only
    revert hm
    induction s.notices with
    | nil => intro hm; simp at hm
    | cons n l ih =>
      intro hm
      rcases n with ⟨b, m, p⟩
      cases b with
      | self cs => simp [Notice.source, Notice.addCauses, causesOf]
      | attachment b p c =>
        have : Source.self ∈ l.map Notice.source := by simpa [Notice.source] using hm
        simpa [Notice.source, causesOf] using ih this
  · rename_i h
    have hf : s.hasNotice .self = false := by simpa using h
    rw [State.selfCauses_of_none s hf, State.selfCauses_eq, State.joinNotice_bodies, causesOf_append]
    · simp [causesOf]
    · intro cs hc
      obtain ⟨n, hn, hb⟩ := List.mem_map.1 hc
      have := List.any_eq_false.1 hf n hn
      simp [Notice.source, hb] at this

/-- Raising a cause leaves the sources as they were, but that the self source joins where it was missing. -/
theorem State.raise_hasNotice (c : Cause) (s : State) (src : Source) (h : src ≠ .self) :
    (s.raise c).hasNotice src = s.hasNotice src := by
  rw [Bool.eq_iff_iff, State.hasNotice_iff, State.hasNotice_iff]
  unfold State.raise
  split
  · have : (fun n : Notice => if n.source = .self then (n.addCauses c.toSet).merge else n) =
        fun n => if n.source = .self then (n.addCauses c.toSet).merge else n := rfl
    have e : ((s.mergeNotice .self c.toSet).notices).map Notice.source = s.notices.map Notice.source := by
      unfold State.mergeNotice
      dsimp only
      rw [List.map_map]
      apply List.map_congr_left
      intro n _
      simp only [Function.comp]
      split <;> simp
    rw [e]
  · have := sources_of_bodies (l := (s.joinNotice (.self c.toSet)).notices)
      (m := s.notices ++ [⟨.self c.toSet, 0, 0⟩]) (by rw [State.joinNotice_bodies]; simp)
    rw [this]
    simp [Notice.source, h]

/-- The ENUM cause raised where an enumeration was ended. -/
theorem State.raiseEnumIf_selfCauses (w : Bool) (b : Branch) (s : State) :
    (s.raiseEnumIf w b).selfCauses = s.selfCauses ||| if w then (Cause.enum b).toSet else 0 := by
  cases w
  · simp [State.raiseEnumIf]
  · simp [State.raiseEnumIf, State.raise_selfCauses]

/-! ### Replies stand where they stood -/

@[simp] theorem State.presentationDue_replies (s : State) : s.presentationDue.replies = s.replies := by
  unfold State.presentationDue
  split
  · rfl
  · dsimp only
    split
    · rfl
    · split
      · rfl
      · rw [State.placeEgress_replies]
        simp [EgressFrame.isReply, State.replies]

@[simp] theorem State.joinNotice_replies (s : State) (b : NoticeBody) : (s.joinNotice b).replies = s.replies := by
  unfold State.joinNotice
  dsimp only
  split
  · rw [State.presentationDue_replies]; rfl
  · rfl

@[simp] theorem State.raise_replies (s : State) (c : Cause) : (s.raise c).replies = s.replies := by
  unfold State.raise
  split
  · rfl
  · simp

@[simp] theorem State.raiseEnumIf_replies (s : State) (w : Bool) (b : Branch) :
    (s.raiseEnumIf w b).replies = s.replies := by
  cases w <;> simp [State.raiseEnumIf]

@[simp] theorem State.afterRemoval_replies (s : State) (kept : List Notice) (g : Bool) :
    (s.afterRemoval kept g).replies = s.replies := by
  unfold State.afterRemoval
  split
  · rfl
  · split
    · rw [State.presentationDue_replies]; rfl
    · rfl

@[simp] theorem State.removeNotices_replies (s : State) (gone : Source → Bool) :
    (s.removeNotices gone).replies = s.replies := by
  unfold State.removeNotices
  split
  · rfl
  · simp

@[simp] theorem State.removeNoticesOf_replies (s : State) (b : Branch) (gone : Position → Bool) :
    (s.removeNoticesOf b gone).replies = s.replies := by
  simp [State.removeNoticesOf]

/-! ### A U link that is not QUIET stands as it stood -/

theorem State.presentationDue_u (s : State) (h : s.u.port.link ≠ .quiet) :
    s.presentationDue.u = s.u ∧ s.presentationDue.upstream = s.upstream := by
  unfold State.presentationDue
  split
  · exact ⟨rfl, rfl⟩
  · dsimp only
    split
    · exact ⟨rfl, rfl⟩
    · split
      · exact ⟨rfl, rfl⟩
      · exact State.placeEgress_u _ _ h

theorem State.joinNotice_u (s : State) (b : NoticeBody) (h : s.u.port.link ≠ .quiet) :
    (s.joinNotice b).u = s.u ∧ (s.joinNotice b).upstream = s.upstream := by
  unfold State.joinNotice
  dsimp only
  split
  · exact State.presentationDue_u _ h
  · exact ⟨rfl, rfl⟩

theorem State.raise_u (s : State) (c : Cause) (h : s.u.port.link ≠ .quiet) :
    (s.raise c).u = s.u ∧ (s.raise c).upstream = s.upstream := by
  unfold State.raise
  split
  · exact ⟨rfl, rfl⟩
  · exact s.joinNotice_u _ h

theorem State.raiseEnumIf_u (s : State) (w : Bool) (b : Branch) (h : s.u.port.link ≠ .quiet) :
    (s.raiseEnumIf w b).u = s.u ∧ (s.raiseEnumIf w b).upstream = s.upstream := by
  cases w
  · exact ⟨rfl, rfl⟩
  · exact s.raise_u _ h

theorem State.removeNotices_u (s : State) (gone : Source → Bool) (h : s.u.port.link ≠ .quiet) :
    (s.removeNotices gone).u = s.u ∧ (s.removeNotices gone).upstream = s.upstream := by
  unfold State.removeNotices
  split
  · exact ⟨rfl, rfl⟩
  · unfold State.afterRemoval
    split
    · exact ⟨rfl, rfl⟩
    · split
      · exact State.presentationDue_u _ h
      · exact ⟨rfl, rfl⟩

theorem State.removeNoticesOf_u (s : State) (b : Branch) (gone : Position → Bool) (h : s.u.port.link ≠ .quiet) :
    (s.removeNoticesOf b gone).u = s.u ∧ (s.removeNoticesOf b gone).upstream = s.upstream :=
  s.removeNotices_u _ h

/-! ### Removing -/

/-- What removing leaves, as bodies: those of the sources that are not named. -/
theorem State.removeNotices_bodies (s : State) (gone : Source → Bool) :
    (s.removeNotices gone).notices.map Notice.body = (s.notices.filter fun n => !gone n.source).map Notice.body := by
  unfold State.removeNotices
  split
  · rename_i h; rw [h]; rfl
  · rename_i h _ hn
    unfold State.afterRemoval
    split
    · rename_i hk; rw [hk]
    · split
      · rw [State.presentationDue_bodies]
      · rfl

/-- After a removal a source has a notice where it had one and was not named. -/
theorem State.removeNotices_hasNotice (s : State) (gone : Source → Bool) (src : Source) :
    (s.removeNotices gone).hasNotice src = (s.hasNotice src && !gone src) := by
  rw [Bool.eq_iff_iff, State.hasNotice_iff, sources_of_bodies (s.removeNotices_bodies gone)]
  simp [State.hasNotice]
  constructor
  · rintro ⟨n, ⟨h1, h2⟩, rfl⟩; exact ⟨⟨n, h1, rfl⟩, h2⟩
  · rintro ⟨⟨n, h1, rfl⟩, h2⟩; exact ⟨n, ⟨h1, h2⟩, rfl⟩

/-- Removing the notices of attachments leaves the self cause set. -/
theorem State.removeNoticesOf_selfCauses (s : State) (b : Branch) (gone : Position → Bool) :
    (s.removeNoticesOf b gone).selfCauses = s.selfCauses := by
  unfold State.removeNoticesOf
  rw [State.selfCauses_eq, State.selfCauses_eq, State.removeNotices_bodies]
  induction s.notices with
  | nil => rfl
  | cons n l ih =>
    rcases n with ⟨bd, m, p⟩
    cases bd with
    | self cs => simp [Notice.source, causesOf]
    | attachment c p k =>
      by_cases h : (c == b && gone p) = true
      · simpa [Notice.source, h, causesOf] using ih
      · simpa [Notice.source, h, causesOf] using ih

/-- Answering requests leaves the self cause set. -/
@[simp] theorem State.answerAll_selfCauses (s : State) (hs : List ReqHeader) (st : Status) :
    (s.answerAll hs st).selfCauses = s.selfCauses := by
  simp [State.selfCauses]

@[simp] theorem State.answerAll_hasNotice (s : State) (hs : List ReqHeader) (st : Status) (src : Source) :
    (s.answerAll hs st).hasNotice src = s.hasNotice src := by
  simp [State.hasNotice]

end Sys2Proof.Machine
end

