-- ==== Sys2Proof/Laws/Tables.lean ====
section
/-!
SUPPORT. The fixed tables: what a mapped table holds, and what a search for the lowest-numbered entry answers.
-/

namespace Sys2Proof.Machine

open Sys2Proof

/-- A mapped table holds at each number what the function gives there. -/
theorem mapTable_get {α : Type} {n : Nat} (f : Fin n → α → α) (v : Vector α n) (i : Fin n) :
    (mapTable f v)[i] = f i v[i] := by
  show (mapTable f v)[i.val] = f i v[i.val]
  unfold mapTable
  simp

/-- The same, at a number that is given with its bound. -/
@[simp] theorem mapTable_getElem {α : Type} {n : Nat} (f : Fin n → α → α) (v : Vector α n) (i : Nat) (h : i < n) :
    (mapTable f v)[i] = f ⟨i, h⟩ v[i] :=
  mapTable_get f v ⟨i, h⟩

/-- Two tables are the same when their entries are. -/
theorem table_ext {α : Type} {n : Nat} {v w : Vector α n} (h : ∀ i : Fin n, v[i] = w[i]) : v = w :=
  Vector.ext fun i hi => h ⟨i, hi⟩

/-- A table mapped by a function that does not look at it. -/
theorem mapTable_const {α : Type} {n : Nat} (f : Fin n → α → α) (v : Vector α n) (x : α) (h : ∀ i, f i v[i] = x) :
    mapTable f v = Vector.replicate n x :=
  table_ext fun i => by simpa using h i

/-- A table mapped by a function that changes nothing. -/
theorem mapTable_same {α : Type} {n : Nat} (f : Fin n → α → α) (v : Vector α n) (h : ∀ i : Fin n, f i v[i] = v[i]) :
    mapTable f v = v :=
  table_ext fun i => by simpa using h i

/-- Mapping twice. -/
theorem mapTable_mapTable {α : Type} {n : Nat} (f g : Fin n → α → α) (v : Vector α n) :
    mapTable f (mapTable g v) = mapTable (fun i x => f i (g i x)) v :=
  table_ext fun i => by simp

/-- The entries of a mapped table, as a list. -/
theorem mapTable_toList {α : Type} {n : Nat} (f : α → α) (v : Vector α n) :
    (mapTable (fun _ x => f x) v).toList = v.toList.map f := by
  apply List.ext_getElem
  · simp
  · intro i h1 h2
    have hi : i < n := by simpa using h1
    simp [mapTable_getElem _ _ i hi]

/-- Below the answer of a search through the numbers of a table no number meets the condition. -/
theorem find_below {n : Nat} {p : Fin n → Bool} {k : Fin n} (h : (List.finRange n).find? p = some k) (j : Fin n)
    (hj : j < k) : p j = false := by
  rw [List.find?_eq_some_iff_append] at h
  obtain ⟨_, as, bs, hl, hn⟩ := h
  have hs : (List.finRange n).Pairwise (· < ·) := List.pairwise_lt_finRange n
  rw [hl] at hs
  have hm : j ∈ as ++ k :: bs := hl ▸ List.mem_finRange j
  rcases List.mem_append.1 hm with h | h
  · simpa using hn j h
  · rcases List.mem_cons.1 h with h | h
    · exact absurd hj (h ▸ lt_irrefl _)
    · have := (List.pairwise_cons.1 (List.pairwise_append.1 hs).2.1).1 j h
      exact absurd (lt_trans hj this) (lt_irrefl _)

/-- A search through the numbers of a table answers i exactly where i is the lowest that meets the condition. -/
theorem find_lowest {n : Nat} (p : Fin n → Bool) (i : Fin n) :
    (List.finRange n).find? p = some i ↔ p i = true ∧ ∀ j, j < i → p j = false := by
  constructor
  · exact fun h => ⟨List.find?_some h, find_below h⟩
  · intro ⟨hp, hl⟩
    cases h : (List.finRange n).find? p with
    | none => exact absurd hp (by simpa using List.find?_eq_none.1 h i (List.mem_finRange i))
    | some k =>
      congr 1
      rcases lt_trichotomy k i with h' | h' | h'
      · exact absurd (List.find?_some h) (by simp [hl k h'])
      · exact h'
      · exact absurd hp (by simp [find_below h i h'])

/-- A search through the numbers of a table answers none exactly where no number meets the condition. -/
theorem find_none {n : Nat} (p : Fin n → Bool) : (List.finRange n).find? p = none ↔ ∀ i, p i = false := by
  simp [List.find?_eq_none]

end Sys2Proof.Machine
end

