-- ==== Sys2Proof/Laws/Branches.lean ====
section
/-!
SUPPORT. What the operations of a branch event do: the requests they answer, the entries they leave, and the frame of the doings
that stand in open order.
-/

namespace Sys2Proof.Machine

open Sys2Proof

/-! ### The requests that a branch event answers -/

/-- The tags of the queued requests, in queue order. -/
theorem State.queuedHeaders_tags (s : State) (b : Branch) : (s.queuedHeaders b).flatMap hdrTags = s.queueTags b := by
  simp [State.queuedHeaders, State.queueTags, List.flatMap_map]

/-- The tags of the WAITING entries that meet a condition, in entry order. -/
theorem State.waitingHeaders_tags (s : State) (b : Branch) (sel : Position → Bool) :
    (s.waitingHeaders b fun c => sel c.position).flatMap hdrTags = s.waitingTags b sel := by
  unfold State.waitingHeaders State.waitingTags
  induction s.entries.toList with
  | nil => rfl
  | cons e l ih =>
    cases e with
    | free => simpa [List.filterMap_cons, PendingEntry.waitingHeader?] using ih
    | orphaned c d st => simpa [List.filterMap_cons, PendingEntry.waitingHeader?] using ih
    | waiting c t d =>
      by_cases h : c.branch = b ∧ sel c.position = true
      · simp [PendingEntry.waitingHeader?, h, hdrTags, ih]
      · simp [PendingEntry.waitingHeader?, h, ih]

/-- As many WAITING entries are answered as tags are freed by them. -/
theorem State.waitingHeaders_length (s : State) (b : Branch) (sel : Position → Bool) :
    (s.waitingHeaders b fun c => sel c.position).length = (s.waitingTags b sel).length := by
  unfold State.waitingHeaders State.waitingTags
  induction s.entries.toList with
  | nil => rfl
  | cons e l ih =>
    cases e with
    | free => simpa [List.filterMap_cons, PendingEntry.waitingHeader?] using ih
    | orphaned c d st => simpa [List.filterMap_cons, PendingEntry.waitingHeader?] using ih
    | waiting c t d =>
      by_cases h : c.branch = b ∧ sel c.position = true
      · simp [PendingEntry.waitingHeader?, h, ih]
      · simp [PendingEntry.waitingHeader?, h, ih]

/-- A branch without a WAITING entry has none to answer. -/
theorem State.waitingHeaders_of_none (s : State) (b : Branch) (h : s.hasWaiting b = false) :
    s.waitingHeaders b (fun _ => true) = [] := by
  unfold State.waitingHeaders
  rw [List.filterMap_eq_nil_iff]
  intro e he
  simpa using List.any_eq_false.1 h e he

/-! ### Whole updates -/

/-- Every entry of the branch is freed and counted; nothing else changes (R76, R77, R79). -/
theorem State.freeEntries_eq (s : State) (b : Branch) : s.freeEntries b = { s with
    entries := mapTable (fun _ e => if e.onBranch b then .free else e) s.entries
    tracker := { s.tracker with
      cut := s.tracker.cut + BitVec.ofNat 32 (s.waitingHeaders b fun _ => true).length
      abandoned := s.tracker.abandoned + BitVec.ofNat 32 (s.entries.toList.countP (PendingEntry.orphanedOn b)) } } :=
  rfl

/-- The WAITING entries that meet a condition become ORPHANED and are counted; nothing else changes (R75, R78). -/
theorem State.orphanWaiting_eq (s : State) (b : Branch) (sel : Carried → Bool) (st : Status) :
    s.orphanWaiting b sel st = { s with
      entries := (s.orphanWaiting b sel st).entries
      tracker := { s.tracker with
        cut := s.tracker.cut + BitVec.ofNat 32 (s.waitingHeaders b sel).length } } :=
  rfl

/-- What each entry becomes where WAITING entries become ORPHANED. -/
theorem State.orphanWaiting_entry (s : State) (b : Branch) (sel : Carried → Bool) (st : Status) (e : EntryIx) :
    (s.orphanWaiting b sel st).entry e =
      match s.entry e with
      | .waiting c t d => if c.branch = b ∧ sel c then .orphaned c (s.orphanDeadline b) st else .waiting c t d
      | .free => .free
      | .orphaned c d st' => .orphaned c d st' := by
  have h : (s.orphanWaiting b sel st).entry e = (fun x : PendingEntry =>
      match x with
      | .waiting c _ _ => if c.branch = b ∧ sel c then .orphaned c (s.orphanDeadline b) st else x
      | .free => x
      | .orphaned _ _ _ => x) (s.entry e) := by
    exact mapTable_get _ _ _
  rw [h]
  cases s.entry e <;> rfl

/-- An abort changes the enumeration and the outcome of its branch, where one runs (R108). -/
theorem State.abortEnumeration_eq (s : State) (b : Branch) : s.abortEnumeration b = s.updBr b fun u =>
    { u with enumeration := .idle, outcome := if u.enumerating then .aborted else u.outcome } := by
  unfold State.abortEnumeration State.stopEnumeration
  split
  · rename_i h
    simp [State.updBr_eq, h]
  · rename_i h
    have hi : (s.br b).enumeration = .idle := by simpa [BranchUnit.enumerating] using h
    rw [State.updBr_eq, if_neg h, ← hi]
    exact (State.setBr_br s b).symm

/-- The entry into WAKING changes its branch alone (R136). -/
theorem State.enterWaking_eq (s : State) (b : Branch) : s.enterWaking b = s.updBr b fun u =>
    { u with
      state := .waking (s.now + Config.wakeTimer)
      controller := { u.controller with wakes := u.controller.wakes + 1 }
      port := if u.port.link = .up then u.port else s.trained u.port
      credit := if u.port.link = .up then u.credit else 0 } := by
  unfold State.enterWaking
  dsimp only
  split
  · rename_i h
    simp [State.updBr_eq, h]
  · rename_i h
    simp only [State.trainBranch, State.updBr_updBr]
    simp only [State.updBr_eq, if_neg h]
    rfl

/-! ### The doings of a branch event, in either order -/

/-- What the answers and the notice doings of a branch event leave, whichever are made first. The notice doings are a raising of
causes and a removal of notices of the branch. -/
theorem State.inOpenOrder_spec (s t : State) (hs : List ReqHeader) (st : Status) (doings : State → State)
    (h : s.inOpenOrder (State.answerAll hs st) doings = t)
    (hr : ∀ x : State, (doings x).replies = x.replies)
    (ht : ∀ x : State, (doings x).tagReg = x.tagReg ∧ (doings x).reservations = x.reservations)
    (hu : ∀ x : State, x.u.port.link ≠ .quiet → (doings x).u = x.u ∧ (doings x).upstream = x.upstream) :
    t.replies = s.replies ++ repliesOf (hs.flatMap hdrTags) st ∧
      t.tagReg = s.tagReg.filter (fun g => !(hs.flatMap hdrTags).contains g) ∧
      t.reservations = s.reservations - (hs.flatMap hdrTags).length ∧
      (s.u.port.link ≠ .quiet → t.u = s.u ∧ t.upstream = s.upstream) := by
  have hrep : ∀ x : State, (x.answerAll hs st).replies = x.replies ++ repliesOf (hs.flatMap hdrTags) st := fun x => by
    unfold State.replies
    rw [(State.answerAll_spec hs st x).1, List.filter_append, repliesOf_filter]
  rcases State.inOpenOrder_cases (State.answerAll hs st) doings s with e | e <;> rw [e] at h <;> subst h
  · obtain ⟨-, h2, h3, h4⟩ := State.answerAll_spec hs st (doings { s with choices := s.choices + 1 })
    refine ⟨?_, ?_, ?_, fun hq => ?_⟩
    · rw [hrep, hr]; rfl
    · rw [h2, (ht _).1]
    · rw [h3, (ht _).2]
    · have k := hu { s with choices := s.choices + 1 } hq
      have := h4 (by rw [k.1]; exact hq)
      exact ⟨this.1.trans k.1, this.2.trans k.2⟩
  · obtain ⟨-, h2, h3, h4⟩ := State.answerAll_spec hs st { s with choices := s.choices + 1 }
    refine ⟨?_, ?_, ?_, fun hq => ?_⟩
    · rw [hr, hrep]; rfl
    · rw [(ht _).1, h2]
    · rw [(ht _).2, h3]
    · have k := h4 hq
      have := hu _ (by rw [k.1]; exact hq)
      exact ⟨this.1.trans k.1, this.2.trans k.2⟩

/-- The same, of everything that such an event leaves alone. -/
theorem State.inOpenOrder_frame (s : State) (hs : List ReqHeader) (st : Status) (doings : State → State)
    (hd : ∀ x : State, doings x = { x with
      u := (doings x).u, upstream := (doings x).upstream, egress := (doings x).egress, notices := (doings x).notices
      rePresentTimer := (doings x).rePresentTimer, presentationOwed := (doings x).presentationOwed
      noticeUnit := (doings x).noticeUnit }) (t : State) (ht : t = s.inOpenOrder (State.answerAll hs st) doings) :
    t = { s with
      u := t.u
      upstream := t.upstream
      tagReg := t.tagReg
      egress := t.egress
      reservations := t.reservations
      notices := t.notices
      rePresentTimer := t.rePresentTimer
      presentationOwed := t.presentationOwed
      noticeUnit := t.noticeUnit
      choices := t.choices } := by
  rcases State.inOpenOrder_cases (State.answerAll hs st) doings s with e | e
  · rw [e] at ht
    subst ht
    rw [State.answerAll_frame, hd]
  · rw [e] at ht
    subst ht
    rw [hd, State.answerAll_frame]

/-- The notice doings of a branch event: a cause that it raises, the ENUM cause of an enumeration that it ends, and the removal of
notices of its attachments. -/
def noticeDoings (b : Branch) (gone : Position → Bool) (ended : Bool) (cause : Option Cause) (s : State) : State :=
  State.removeNoticesOf b gone (State.raiseEnumIf ended b (cause.elim s fun c => s.raise c))

theorem noticeDoings_frame (b : Branch) (gone : Position → Bool) (ended : Bool) (cause : Option Cause) (s : State) :
    noticeDoings b gone ended cause s = { s with
      u := (noticeDoings b gone ended cause s).u
      upstream := (noticeDoings b gone ended cause s).upstream
      egress := (noticeDoings b gone ended cause s).egress
      notices := (noticeDoings b gone ended cause s).notices
      rePresentTimer := (noticeDoings b gone ended cause s).rePresentTimer
      presentationOwed := (noticeDoings b gone ended cause s).presentationOwed
      noticeUnit := (noticeDoings b gone ended cause s).noticeUnit } := by
  cases cause <;> apply State.ext_fields <;> simp [noticeDoings]

theorem noticeDoings_replies (b : Branch) (gone : Position → Bool) (ended : Bool) (cause : Option Cause) (s : State) :
    (noticeDoings b gone ended cause s).replies = s.replies := by
  cases cause <;> simp [noticeDoings]

theorem noticeDoings_u (b : Branch) (gone : Position → Bool) (ended : Bool) (cause : Option Cause) (s : State)
    (h : s.u.port.link ≠ .quiet) :
    (noticeDoings b gone ended cause s).u = s.u ∧ (noticeDoings b gone ended cause s).upstream = s.upstream := by
  have k1 : (cause.elim s fun c => s.raise c).u = s.u ∧ (cause.elim s fun c => s.raise c).upstream = s.upstream := by
    cases cause with
    | none => exact ⟨rfl, rfl⟩
    | some c => exact State.raise_u s c h
  have k2 := State.raiseEnumIf_u (cause.elim s fun c => s.raise c) ended b (by rw [k1.1]; exact h)
  have k3 := State.removeNoticesOf_u _ b gone (by rw [k2.1, k1.1]; exact h)
  exact ⟨k3.1.trans (k2.1.trans k1.1), k3.2.trans (k2.2.trans k1.2)⟩

theorem noticeDoings_selfCauses (b : Branch) (gone : Position → Bool) (ended : Bool) (cause : Option Cause) (s : State) :
    (noticeDoings b gone ended cause s).selfCauses =
      s.selfCauses ||| (cause.elim 0 Cause.toSet) ||| (if ended then (Cause.enum b).toSet else 0) := by
  unfold noticeDoings
  rw [State.removeNoticesOf_selfCauses, State.raiseEnumIf_selfCauses]
  cases cause with
  | none => simp
  | some c => simp [State.raise_selfCauses]

theorem noticeDoings_hasNotice (b : Branch) (gone : Position → Bool) (ended : Bool) (cause : Option Cause) (s : State)
    (p : Position) (h : gone p = true) : (noticeDoings b gone ended cause s).hasNotice (.attachment b p) = false := by
  unfold noticeDoings State.removeNoticesOf
  rw [State.removeNotices_hasNotice]
  simp [h]

/-- What the answers and the notice doings of a branch event leave, in whichever order they are made. -/
theorem branchEvent_spec {s t : State} {hs : List ReqHeader} {st : Status} {b : Branch} {gone : Position → Bool}
    {ended : Bool} {cause : Option Cause}
    (h : t = s.inOpenOrder (State.answerAll hs st) (noticeDoings b gone ended cause)) :
    t.replies = s.replies ++ repliesOf (hs.flatMap hdrTags) st ∧
      t.tagReg = s.tagReg.filter (fun g => !(hs.flatMap hdrTags).contains g) ∧
      t.reservations = s.reservations - (hs.flatMap hdrTags).length ∧
      (s.u.port.link ≠ .quiet → t.u = s.u ∧ t.upstream = s.upstream) ∧
      t.selfCauses =
        s.selfCauses ||| (cause.elim 0 Cause.toSet) ||| (if ended then (Cause.enum b).toSet else 0) ∧
      (∀ p, gone p = true → t.hasNotice (.attachment b p) = false) ∧
      t = { s with
        u := t.u
        upstream := t.upstream
        tagReg := t.tagReg
        egress := t.egress
        reservations := t.reservations
        notices := t.notices
        rePresentTimer := t.rePresentTimer
        presentationOwed := t.presentationOwed
        noticeUnit := t.noticeUnit
        choices := t.choices } := by
  obtain ⟨h1, h2, h3, h4⟩ := State.inOpenOrder_spec s t hs st (noticeDoings b gone ended cause) h.symm
    (fun x => noticeDoings_replies b gone ended cause x)
    (fun x => ⟨by rw [noticeDoings_frame], by rw [noticeDoings_frame]⟩)
    (fun x hx => noticeDoings_u b gone ended cause x hx)
  refine ⟨h1, h2, h3, h4, ?_, fun p hp => ?_, State.inOpenOrder_frame s hs st _
    (fun x => noticeDoings_frame b gone ended cause x) t h⟩
  · rcases State.inOpenOrder_cases (State.answerAll hs st) (noticeDoings b gone ended cause) s with e | e
    · rw [h, e, State.answerAll_selfCauses, noticeDoings_selfCauses]; rfl
    · rw [h, e, noticeDoings_selfCauses, State.answerAll_selfCauses]; rfl
  · rcases State.inOpenOrder_cases (State.answerAll hs st) (noticeDoings b gone ended cause) s with e | e
    · rw [h, e, State.answerAll_hasNotice, noticeDoings_hasNotice _ _ _ _ _ _ hp]
    · rw [h, e, noticeDoings_hasNotice _ _ _ _ _ _ hp]

/-- A branch link loss as such an event (R126). -/
theorem State.branchLinkLoss_event (s : State) (b : Branch) : s.branchLinkLoss b =
    State.inOpenOrder (State.answerAll (s.queuedHeaders b ++ s.waitingHeaders b fun _ => true) .lost)
      (noticeDoings b (fun p => (s.record b p).losable) (s.br b).enumerating (some (.link b)))
      ((State.abortEnumeration b (State.loseRecords b (fun _ => true)
        (State.freeEntries b (State.emptyQueue b s)))).updBr b fun u =>
          { u with
            state := .down
            clearOwed := true
            controller := { u.controller with linkLosses := u.controller.linkLosses + 1 } }) :=
  rfl

/-- The ending of an enumeration by a chain break changes its branch alone (R113). -/
theorem State.stopIf_eq (s : State) (b : Branch) (w : Bool) (o : EnumOutcome) :
    (if w then s.stopEnumeration b o else s) = s.updBr b fun u =>
      { u with enumeration := if w then .idle else u.enumeration, outcome := if w then o else u.outcome } := by
  cases w
  · rw [if_neg (by simp), State.updBr_eq]
    exact (State.setBr_br s b).symm
  · rfl

/-- A chain break as such an event, with the drain judged after it (R112, R113, R129). -/
theorem State.takeBreak_event (s : State) (b : Branch) (k : Nat) : s.takeBreak b k =
    State.judgeDrain b
      (State.inOpenOrder (State.answerAll (s.waitingHeaders b fun c => decide (k < c.position.val)) .lost)
        (noticeDoings b ((s.br b).breakLoses k) ((s.br b).breakEnds k) (some (.chain b)))
        (State.updBr
          (State.updBr
            (State.loseRecords b ((s.br b).breakLoses k)
              (State.orphanWaiting b (fun c => decide (k < c.position.val)) .lost s)) b fun u =>
            { u with
              enumeration := if (s.br b).breakEnds k then .idle else u.enumeration
              outcome := if (s.br b).breakEnds k then .aborted else u.outcome }) b fun v =>
          { v with chain := { v.chain with breaks := v.chain.breaks + 1 } })) := by
  rw [← State.stopIf_eq]
  rfl

/-- A BRANCH-RESET as such an event (R140). -/
theorem State.resetBranch_event (s : State) (b : Branch) : s.resetBranch b =
    State.inOpenOrder (State.answerAll (s.queuedHeaders b ++ s.waitingHeaders b fun _ => true) .flushed)
      (noticeDoings b (fun _ => true) (s.br b).enumerating none)
      (State.resetBranchState b ((State.abortEnumeration b (State.vacateRecords b
        (State.orphanWaiting b (fun _ => true) .flushed (State.emptyQueue b s)))).updBr b fun v =>
          { v with clearOwed := true, wakeLatch := false })) :=
  rfl

/-- A wake that fails as such an event (R138). -/
theorem State.wakeFails_event (s : State) (b : Branch) : s.wakeFails b =
    State.inOpenOrder (State.answerAll (s.queuedHeaders b ++ s.waitingHeaders b fun _ => true) .lost)
      (noticeDoings b (fun p => (s.record b p).losable) false (some (.wake b)))
      ((State.loseRecords b (fun _ => true) (State.freeEntries b (State.emptyQueue b s))).updBr b fun u =>
        { u with
          state := .failed
          port := u.port.goOff
          credit := 0
          unsent := []
          controller := { u.controller with wakeFailures := u.controller.wakeFailures + 1 } }) :=
  rfl

end Sys2Proof.Machine
end

