-- ==== Sys2Proof/Laws/Events.lean ====
section
/-!
SUPPORT. What a branch event leaves of the notice unit, of the ATTENTION frames and of U: the lemma branchEvent_notes says it once,
for a link loss, a chain break, a wake that fails and a BRANCH-RESET alike.
-/

namespace Sys2Proof.Machine

open Sys2Proof

/-! ### U as the frames placed leave it -/

/-- What placing some frames makes of U and its counters: with none placed, or on a link that is not QUIET, nothing (R179). -/
def State.wokenFor (s : State) (placed : List EgressFrame) : UPort × UpstreamCounters :=
  if s.u.port.link = .quiet ∧ placed ≠ [] then
    ({ s.u with port := s.trained s.u.port }, { s.upstream with wakes := s.upstream.wakes + 1 })
  else (s.u, s.upstream)

/-- A port that is made to train is not QUIET. -/
theorem State.trained_link (s : State) (p : LinkPort) : (s.trained p).link ≠ .quiet := by
  unfold State.trained; split <;> simp [LinkPort.goOff, LinkPort.train]

/-- Frames placed one after the other wake U as they do together. -/
theorem State.wokenFor_append (s t : State) (a b : List EgressFrame) (h : (t.u, t.upstream) = s.wokenFor a)
    (hr : t.resetPin = s.resetPin) (hn : t.now = s.now) : t.wokenFor b = s.wokenFor (a ++ b) := by
  unfold State.wokenFor at h ⊢
  by_cases hq : s.u.port.link = .quiet
  · by_cases ha : a = []
    · subst ha
      rw [if_neg (by simp)] at h
      obtain ⟨h1, h2⟩ := Prod.mk.inj h
      simp only [h1, h2, List.nil_append, State.trained, hr, hn]
    · rw [if_pos ⟨hq, ha⟩] at h
      obtain ⟨h1, h2⟩ := Prod.mk.inj h
      have : t.u.port.link ≠ .quiet := by rw [h1]; exact s.trained_link _
      rw [if_neg (by simp [this]), if_pos ⟨hq, by simp [ha]⟩, h1, h2]
  · rw [if_neg (by simp [hq])] at h
    obtain ⟨h1, h2⟩ := Prod.mk.inj h
    rw [if_neg (by simp [h1, hq]), if_neg (by simp [hq]), h1, h2]

/-- What placing one frame makes of U. -/
theorem State.placeEgress_woken (s : State) (f : EgressFrame) :
    ((s.placeEgress f).u, (s.placeEgress f).upstream) = s.wokenFor [f] := by
  unfold State.placeEgress State.signalWakeU State.wokenFor
  by_cases h : s.u.port.link = .quiet <;> simp [h, State.trainU, State.trained]

/-- What answering several requests makes of U. -/
theorem State.answerAll_woken (hs : List ReqHeader) (st : Status) (s : State) :
    ((s.answerAll hs st).u, (s.answerAll hs st).upstream) = s.wokenFor (repliesOf (hs.flatMap hdrTags) st) := by
  induction hs generalizing s with
  | nil => simp [State.answerAll, State.wokenFor, repliesOf]
  | cons h hs ih =>
    have e : s.answerAll (h :: hs) st = (s.answer h st).answerAll hs st := rfl
    rw [e, ih]
    cases h with
    | post => rfl
    | tagged k t =>
      have := State.placeEgress_woken
        { s with tagReg := s.tagReg.filter (· ≠ t), reservations := s.reservations - 1 }
        (.reply { tag := t, status := st, detail := 0, data := [] })
      rw [State.wokenFor_append s (s.answer (.tagged k t) st) _ _ this (by simp) (by simp)]
      simp [hdrTags, repliesOf]

/-! ### The notices after a branch event -/

/-- The ATTENTION frame that a due presentation places, if it is made (R154 to R157). -/
def State.presented (s : State) : List EgressFrame :=
  match s.notices with
  | [] => []
  | h :: _ => if s.member = none ∨ s.noticeSlotFull = true then [] else [.attention (BitVec.ofNat 8 h.source.number)]

/-- A presentation places no reply. -/
theorem State.presented_replies (s : State) : s.presented.filter (fun f => f.isReply) = [] := by
  unfold State.presented
  split
  · rfl
  · split <;> simp [EgressFrame.isReply]

/-- What a due presentation adds to the egress queue. -/
theorem State.presentationDue_egress (s : State) : s.presentationDue.egress = s.egress ++ s.presented := by
  unfold State.presented
  split
  · rename_i h; rw [s.presentationDue_nil h]; simp
  · rename_i h rest hn
    by_cases hm : s.member = none
    · rw [s.presentationDue_deferred h rest hn hm, if_pos (.inl hm)]; simp
    · by_cases hf : s.noticeSlotFull = true
      · rw [s.presentationDue_skipped h rest hn hm hf, if_pos (.inr hf)]; simp
      · rw [s.presentationDue_made h rest hn hm (by simpa using hf), if_neg (by simp [hm, hf])]; simp

/-- What a due presentation makes of U. -/
theorem State.presentationDue_woken (s : State) :
    (s.presentationDue.u, s.presentationDue.upstream) = s.wokenFor s.presented := by
  unfold State.presented
  split
  · rename_i h; rw [s.presentationDue_nil h]; simp [State.wokenFor]
  · rename_i h rest hn
    by_cases hm : s.member = none
    · rw [s.presentationDue_deferred h rest hn hm, if_pos (.inl hm)]; simp [State.wokenFor]
    · by_cases hf : s.noticeSlotFull = true
      · rw [s.presentationDue_skipped h rest hn hm hf, if_pos (.inr hf)]; simp [State.wokenFor]
      · rw [s.presentationDue_made h rest hn hm (by simpa using hf), if_neg (by simp [hm, hf]),
          State.placeEgress_woken]; rfl

/-- Two states whose notice units stand alike, on which a presentation does alike. -/
structure State.NotesAlike (s t : State) : Prop where
  notices : s.notices = t.notices
  unit : s.noticeUnit = t.noticeUnit
  timer : s.rePresentTimer = t.rePresentTimer
  owed : s.presentationOwed = t.presentationOwed

/-- What a presentation looks at beside the notices. -/
structure State.PresentsAlike (s t : State) : Prop extends State.NotesAlike s t where
  member : s.member = t.member
  slot : s.noticeSlotFull = t.noticeSlotFull
  now : s.now = t.now
  interval : s.interval = t.interval

/-- Two states on which a presentation does alike are left alike by it. -/
theorem State.presentationDue_alike {s t : State} (h : s.PresentsAlike t) :
    s.presentationDue.NotesAlike t.presentationDue ∧ s.presented = t.presented := by
  obtain ⟨⟨h1, h2, h3, h4⟩, h5, h6, h8, h9⟩ := h
  have h7 : s.restartedTimer = t.restartedTimer := by unfold State.restartedTimer; rw [h8, h9]
  unfold State.presented
  rw [← h1, ← h5, ← h6]
  refine ⟨?_, rfl⟩
  cases hn : s.notices with
  | nil => rw [s.presentationDue_nil hn, t.presentationDue_nil (h1 ▸ hn)]; exact ⟨h1, h2, h3, h4⟩
  | cons n rest =>
    have hn' := h1 ▸ hn
    by_cases hm : s.member = none
    · rw [s.presentationDue_deferred n rest hn hm, t.presentationDue_deferred n rest hn' (h5 ▸ hm)]
      exact ⟨h1, h2, h7, rfl⟩
    · by_cases hf : s.noticeSlotFull = true
      · rw [s.presentationDue_skipped n rest hn hm hf, t.presentationDue_skipped n rest hn' (h5 ▸ hm) (h6 ▸ hf)]
        exact ⟨h1, by rw [h2], h7, h4⟩
      · have hf' : s.noticeSlotFull = false := by simpa using hf
        rw [s.presentationDue_made n rest hn hm hf', t.presentationDue_made n rest hn' (h5 ▸ hm) (h6 ▸ hf')]
        exact ⟨by simp, by simp [h2], by simp [h7], by simp [h4]⟩

/-- What noticesAfter leaves in two states on which a presentation does alike, and the ATTENTION frame it may place. -/
theorem State.noticesAfter_alike {s t : State} (h : s.PresentsAlike t) (cs : List Cause) (g : Source → Bool) :
    (s.noticesAfter cs g).NotesAlike (t.noticesAfter cs g) ∧
      ∃ att, (s.noticesAfter cs g).egress = s.egress ++ att ∧ (t.noticesAfter cs g).egress = t.egress ++ att ∧
        att.filter (fun f => f.isReply) = [] ∧
        ((s.noticesAfter cs g).u, (s.noticesAfter cs g).upstream) = s.wokenFor att := by
  obtain ⟨⟨h1, h2, h3, h4⟩, h5, h6, h7, h8⟩ := h
  have hh : s.hasNotice .self = t.hasNotice .self := by simp [State.hasNotice, h1]
  unfold State.noticesAfter
  dsimp only
  rw [← h1, ← h2, hh]
  split
  · split
    · exact ⟨⟨rfl, rfl, h3, h4⟩, [], by simp, by simp, rfl, by simp [State.wokenFor]⟩
    · exact ⟨⟨rfl, rfl, rfl, rfl⟩, [], by simp, by simp, rfl, by simp [State.wokenFor]⟩
  · split
    · exact ⟨⟨rfl, rfl, h3, h4⟩, [], by simp, by simp, rfl, by simp [State.wokenFor]⟩
    · refine ⟨?_, State.presented _, State.presentationDue_egress _, ?_, ?_, State.presentationDue_woken _⟩
      · refine (State.presentationDue_alike ?_).1
        exact ⟨⟨rfl, rfl, h3, h4⟩, h5, h6, h7, h8⟩
      · rw [State.presentationDue_egress]
        congr 1
        refine (State.presentationDue_alike ?_).2
        exact ⟨⟨rfl, rfl, h3.symm, h4.symm⟩, h5.symm, h6.symm, h7.symm, h8.symm⟩
      · exact State.presented_replies _

/-- Raising a cause where a self notice stands. -/
theorem State.raise_of_self (c : Cause) (s : State) (h : s.hasNotice .self = true) : s.raise c = { s with
    notices := withCause c s.notices
    noticeUnit := { s.noticeUnit with merged := s.noticeUnit.merged + 1 } } := by
  have h' : s.notices.any (fun n => n.source == .self) = true := h
  unfold State.raise withCause
  rw [if_pos h, if_pos h']
  unfold State.mergeNotice
  congr 1
  apply List.map_congr_left
  intro n _
  rcases n with ⟨b, m, p⟩
  cases b <;> simp [Notice.source, Notice.addCauses, Notice.merge]

/-- Raising a cause where no self notice stands. -/
theorem State.raise_of_none (c : Cause) (s : State) (h : s.hasNotice .self = false) :
    ∀ j : State, j = { s with
      notices := withCause c s.notices
      noticeUnit := { s.noticeUnit with joined := s.noticeUnit.joined + 1 } } →
    s.raise c = if s.notices = [] then j.presentationDue else j := by
  intro j hj
  have h' : s.notices.any (fun n => n.source == .self) = false := h
  have e : withCause c s.notices = s.notices ++ [{ body := .self c.toSet, merges := 0, presentations := 0 }] := by
    unfold withCause; rw [if_neg (by simp [h'])]
  rw [e] at hj
  subst hj
  simp [State.raise, State.joinNotice, h]

/-- A cause leaves every source that has a notice, and adds the self source where it is missing. -/
theorem withCause_source (c : Cause) (ns : List Notice) : (withCause c ns).map Notice.source =
    if ns.any (fun n => n.source == .self) then ns.map Notice.source else ns.map Notice.source ++ [.self] := by
  unfold withCause
  split
  · rw [List.map_map]
    apply List.map_congr_left
    intro n _
    rcases n with ⟨b, m, p⟩
    cases b <;> rfl
  · simp [Notice.source]

/-- A list from which no source is named loses nothing. -/
theorem filter_not_gone (ns : List Notice) (b : Branch) (gone : Position → Bool)
    (h : ∀ n ∈ ns, n.source = .self) : ns.filter (fun n => !Source.isOf b gone n.source) = ns := by
  rw [List.filter_eq_self]
  intro n hn
  rw [h n hn]; rfl

/-- The removal of a branch's notices as a removal by source. -/
theorem State.removeNoticesOf_eq (s : State) (b : Branch) (gone : Position → Bool) :
    s.removeNoticesOf b gone = s.removeNotices (Source.isOf b gone) := by
  unfold State.removeNoticesOf
  congr 1

/-- The notice of a self cause, its counts at 0. -/
def selfOf (c : CauseSet) (merges : Nat) : Notice :=
  { body := .self c, merges := merges, presentations := 0 }

/-- Adding a cause to the one notice, and presenting it, stand in either order. -/
theorem State.raise_presentationDue (c : Cause) (s : State) (cs : CauseSet) (m : Nat) (h : s.notices = [selfOf cs m]) :
    s.presentationDue.raise c = (s.raise c).presentationDue := by
  have h1 : s.hasNotice .self = true := by simp [State.hasNotice, h, selfOf, Notice.source]
  have h2 : s.presentationDue.hasNotice .self = true := by simp [h1]
  have e : s.raise c = { s with
      notices := [selfOf (cs ||| c.toSet) (min 15 (m + 1))]
      noticeUnit := { s.noticeUnit with merged := s.noticeUnit.merged + 1 } } := by
    rw [State.raise_of_self c s h1, h]
    simp [withCause, selfOf, Notice.source]
  have w : (s.raise c).notices = [selfOf (cs ||| c.toSet) (min 15 (m + 1))] := by rw [e]
  have e3 : (s.raise c).member = s.member := by rw [e]
  have e4 : (s.raise c).noticeSlotFull = s.noticeSlotFull := by rw [e]; rfl
  rw [State.raise_of_self c _ h2]
  by_cases hm : s.member = none
  · rw [s.presentationDue_deferred _ [] h hm, (s.raise c).presentationDue_deferred _ [] w (e3.trans hm), e]
    simp [h, withCause, selfOf, Notice.source, State.restartedTimer]
  · by_cases hf : s.noticeSlotFull = true
    · rw [s.presentationDue_skipped _ [] h hm hf,
        (s.raise c).presentationDue_skipped _ [] w (by rw [e3]; exact hm) (e4.trans hf), e]
      simp [h, withCause, selfOf, Notice.source, State.restartedTimer]
    · have hf' : s.noticeSlotFull = false := by simpa using hf
      rw [s.presentationDue_made _ [] h hm hf',
        (s.raise c).presentationDue_made _ [] w (by rw [e3]; exact hm) (e4.trans hf'), e]
      unfold State.placeEgress State.signalWakeU
      dsimp only
      by_cases hq : s.u.port.link = .quiet <;>
        simp [hq, State.trainU, State.trained, State.restartedTimer, selfOf, withCause, Notice.source, Notice.present]

/-- Where every notice is the self notice, none is removed with a branch's. -/
theorem State.removeNoticesOf_self (s : State) (b : Branch) (gone : Position → Bool)
    (h : s.notices.map Notice.source = [.self]) : s.removeNoticesOf b gone = s := by
  rw [State.removeNoticesOf_eq]
  unfold State.removeNotices
  cases hn : s.notices with
  | nil => rfl
  | cons n rest =>
    rw [hn] at h
    have hs : n.source = .self := by simpa using (List.cons.inj h).1
    have hr : rest = [] := by simpa using (List.cons.inj h).2
    subst hr
    have hf : [n].filter (fun n => !Source.isOf b gone n.source) = [n] :=
      filter_not_gone [n] b gone fun m hm => by rw [List.mem_singleton.1 hm, hs]
    dsimp only
    rw [hf, hs]
    show State.afterRemoval [n] false s = s
    unfold State.afterRemoval
    rw [if_neg (by simp), if_neg (by simp), ← hn]

/-- Causes leave the source of the head as it was. -/
theorem foldl_withCause_head (cs : List Cause) (ns : List Notice) (h : ns ≠ []) :
    (cs.foldl (fun ns c => withCause c ns) ns).head?.map Notice.source = ns.head?.map Notice.source := by
  induction cs generalizing ns with
  | nil => rfl
  | cons c cs ih =>
    have e : (withCause c ns).head?.map Notice.source = ns.head?.map Notice.source := by
      rw [← List.head?_map, ← List.head?_map, withCause_source]
      split
      · rfl
      · cases ns with
        | nil => exact absurd rfl h
        | cons n l => rfl
    have hne : withCause c ns ≠ [] := by
      intro h0
      rw [h0] at e
      cases ns with
      | nil => exact h rfl
      | cons n l => simp at e
    rw [List.foldl_cons, ih _ hne, e]

/-- With a notice in the queue, what the notice unit makes of an event is the removal from the list with the causes. -/
theorem State.noticesAfter_of_some (s x : State) (causes : List Cause) (b : Branch) (gone : Position → Bool)
    (h : s.notices ≠ [])
    (hx : x = { s with
      notices := causes.foldl (fun ns c => withCause c ns) s.notices
      noticeUnit := { s.noticeUnit with
        joined := s.noticeUnit.joined + BitVec.ofNat 32 (if causes = [] ∨ s.hasNotice .self = true then 0 else 1)
        merged := s.noticeUnit.merged + BitVec.ofNat 32
          (causes.length - if causes = [] ∨ s.hasNotice .self = true then 0 else 1) } }) :
    x.removeNoticesOf b gone = s.noticesAfter causes (Source.isOf b gone) := by
  have hh := foldl_withCause_head causes s.notices h
  rw [State.removeNoticesOf_eq]
  unfold State.removeNotices State.noticesAfter
  subst hx
  dsimp only
  generalize causes.foldl (fun ns c => withCause c ns) s.notices = ns at hh ⊢
  generalize (if causes = [] ∨ s.hasNotice .self = true then 0 else 1) = joins
  cases ns with
  | nil => cases hn : s.notices with
    | nil => exact absurd hn h
    | cons n l => rw [hn] at hh; simp at hh
  | cons n ns =>
    dsimp only
    unfold State.afterRemoval
    by_cases hk : (n :: ns).filter (fun n => !Source.isOf b gone n.source) = []
    · rw [if_pos hk, if_pos hk, if_neg h, hk]
    · rw [if_neg hk, if_neg hk, ← hh]
      by_cases hg : Source.isOf b gone n.source = true
      · rw [if_pos hg, if_neg]
        intro e
        cases hl : (n :: ns).filter (fun n => !Source.isOf b gone n.source) with
        | nil => exact hk hl
        | cons m ms =>
          rw [hl] at e
          have hm : m ∈ (n :: ns).filter (fun n => !Source.isOf b gone n.source) := by rw [hl]; exact List.mem_cons_self
          have := (List.mem_filter.1 hm).2
          have e' : m.source = n.source := by simpa using e
          rw [e', hg] at this
          exact absurd this (by simp)
      · rw [if_neg hg, if_pos]
        rw [List.filter_cons_of_pos (by simpa using hg)]
        rfl

/-- Raising a cause where the queue is not empty presents nothing. -/
theorem State.raiseAll_of_some (c : Cause) (s : State) (h : s.notices ≠ []) : s.raise c = { s with
    notices := withCause c s.notices
    noticeUnit := { s.noticeUnit with
      joined := s.noticeUnit.joined + BitVec.ofNat 32 (if s.hasNotice .self = true then 0 else 1)
      merged := s.noticeUnit.merged + BitVec.ofNat 32 (1 - if s.hasNotice .self = true then 0 else 1) } } := by
  by_cases hs : s.hasNotice .self = true
  · rw [State.raise_of_self c s hs]; simp [hs]
  · have hf : s.hasNotice .self = false := by simpa using hs
    rw [State.raise_of_none c s hf _ rfl, if_neg h]; simp [hf]

/-- Once a cause is raised the self source has a notice. -/
theorem withCause_any (c : Cause) (ns : List Notice) : (withCause c ns).any (fun n => n.source == .self) = true := by
  have h : Source.self ∈ (withCause c ns).map Notice.source := by
    rw [withCause_source]
    split
    · rename_i hs
      obtain ⟨n, hn, e⟩ := List.any_eq_true.1 hs
      exact List.mem_map.2 ⟨n, hn, by simpa using e⟩
    · simp
  obtain ⟨n, hn, e⟩ := List.mem_map.1 h
  exact List.any_eq_true.2 ⟨n, hn, by simpa using e⟩

/-- The notice doings of a branch event are those of noticesAfter. -/
theorem noticeDoings_eq (b : Branch) (gone : Position → Bool) (ended : Bool) (cause : Option Cause) (s : State) :
    noticeDoings b gone ended cause s =
      s.noticesAfter (cause.toList ++ if ended then [.enum b] else []) (Source.isOf b gone) := by
  unfold noticeDoings
  by_cases h : s.notices = []
  · have hf : s.hasNotice .self = false := by simp [State.hasNotice, h]
    have one : ∀ c : Cause, (s.raise c) = s.noticesAfter [c] (Source.isOf b gone) := fun c => by
      rw [State.raise_of_none c s hf _ rfl, if_pos h]
      unfold State.noticesAfter
      rw [h, hf]
      simp [withCause, Notice.source, Source.isOf]
    have src : ∀ c : Cause, (s.raise c).notices.map Notice.source = [.self] := fun c => by
      rw [State.raise_of_none c s hf _ rfl, if_pos h, State.presentationDue_sources]
      simp [h, withCause, Notice.source]
    cases cause with
    | none =>
      cases ended with
      | false =>
        show State.removeNoticesOf b gone s = _
        rw [State.removeNoticesOf_eq]
        unfold State.removeNotices State.noticesAfter
        rw [h]
        apply State.ext_fields <;> simp [h]
      | true =>
        show State.removeNoticesOf b gone (s.raise _) = _
        rw [State.removeNoticesOf_self _ _ _ (src _), one]
        rfl
    | some c =>
      cases ended with
      | false =>
        show State.removeNoticesOf b gone (s.raise c) = _
        rw [State.removeNoticesOf_self _ _ _ (src _), one]
        rfl
      | true =>
        show State.removeNoticesOf b gone ((s.raise c).raise (.enum b)) = _
        have e : (s.raise c).raise (.enum b) = (State.raise (.enum b) { s with
            notices := [selfOf c.toSet 0]
            noticeUnit := { s.noticeUnit with joined := s.noticeUnit.joined + 1 } }).presentationDue := by
          rw [State.raise_of_none c s hf _ rfl, if_pos h, State.raise_presentationDue _ _ c.toSet 0]
          · rw [h]; rfl
          · rw [h]; rfl
        rw [State.removeNoticesOf_self, e]
        · rw [State.raise_of_self _ _ (by simp [State.hasNotice, selfOf, Notice.source])]
          unfold State.noticesAfter
          rw [h, hf]
          simp [withCause, selfOf, Notice.source, Source.isOf]
        · rw [e, State.presentationDue_sources,
            State.raise_of_self _ _ (by simp [State.hasNotice, selfOf, Notice.source])]
          simp [withCause, selfOf, Notice.source]
  · apply State.noticesAfter_of_some s _ _ b gone h
    have second : ∀ c c' : Cause, (s.raise c).raise c' = { s with
        notices := withCause c' (withCause c s.notices)
        noticeUnit := { s.noticeUnit with
          joined := s.noticeUnit.joined + BitVec.ofNat 32 (if s.hasNotice .self = true then 0 else 1)
          merged := s.noticeUnit.merged + BitVec.ofNat 32 (2 - if s.hasNotice .self = true then 0 else 1) } } := by
      intro c c'
      have hs2 : (s.raise c).hasNotice .self = true := by
        rw [State.raiseAll_of_some c s h]; exact withCause_any c s.notices
      rw [State.raise_of_self c' _ hs2, State.raiseAll_of_some c s h]
      by_cases hs : s.hasNotice .self = true <;> simp [hs, BitVec.add_assoc]
    cases cause with
    | none =>
      cases ended with
      | false => apply State.ext_fields <;> simp [State.raiseEnumIf]
      | true => refine (State.raiseAll_of_some (.enum b) s h).trans ?_; simp
    | some c =>
      cases ended with
      | false => refine (State.raiseAll_of_some c s h).trans ?_; simp
      | true => refine (second c (.enum b)).trans ?_; simp

/-- What an event of a branch leaves of the notice unit, of the ATTENTION frames and of U, in whichever order the answers and the
notice doings are made. -/
theorem branchEvent_notes {s₀ s t : State} {hs : List ReqHeader} {st : Status} {b : Branch} {gone : Position → Bool}
    {ended : Bool} {cause : Option Cause}
    (h : t = s.inOpenOrder (State.answerAll hs st) (noticeDoings b gone ended cause))
    (hp : s.PresentsAlike s₀) (hu : s.u = s₀.u ∧ s.upstream = s₀.upstream ∧ s.egress = s₀.egress ∧
      s.resetPin = s₀.resetPin ∧ s.choices = s₀.choices) :
    State.NotesEvent s₀ t (cause.toList ++ if ended then [.enum b] else []) (Source.isOf b gone) := by
  generalize hc : (cause.toList ++ if ended then [.enum b] else []) = causes
  have hd : ∀ x, noticeDoings b gone ended cause x = x.noticesAfter causes (Source.isOf b gone) := fun x => by
    rw [noticeDoings_eq, hc]
  obtain ⟨hu1, hu2, hu3, hu4, hu5⟩ := hu
  have key : ∀ (att : List EgressFrame) (reps : List EgressFrame), (t.u, t.upstream) = s₀.wokenFor (att ++ reps) →
      (t.egress = s₀.egress ++ (att ++ reps) ∨ t.egress = s₀.egress ++ (reps ++ att)) →
      (if s₀.u.port.link = .quiet ∧ t.egress ≠ s₀.egress then
        t.u = { s₀.u with port := s₀.trained s₀.u.port } ∧
          t.upstream = { s₀.upstream with wakes := s₀.upstream.wakes + 1 }
      else t.u = s₀.u ∧ t.upstream = s₀.upstream) := by
    intro att reps hw he
    have hne : t.egress ≠ s₀.egress ↔ att ++ reps ≠ [] := by
      rcases he with he | he <;> rw [he] <;> simp [List.append_eq_nil_iff, and_comm]
    unfold State.wokenFor at hw
    split at hw
    · rename_i hq; rw [if_pos ⟨hq.1, hne.2 hq.2⟩]; exact Prod.mk.inj hw
    · rename_i hq; rw [if_neg fun q => hq ⟨q.1, hne.1 q.2⟩]; exact Prod.mk.inj hw
  have after : ∀ x : State, (x.noticesAfter causes (Source.isOf b gone)).resetPin = x.resetPin ∧
      (x.noticesAfter causes (Source.isOf b gone)).now = x.now ∧
      (x.noticesAfter causes (Source.isOf b gone)).choices = x.choices := fun x => by
    rw [← hd]
    exact ⟨by rw [noticeDoings_frame], by rw [noticeDoings_frame], by rw [noticeDoings_frame]⟩
  have noReply : ∀ reps : List EgressFrame, reps.filter EgressFrame.isReply = reps →
      reps.filter (fun f => !f.isReply) = [] := fun reps hr => by
    rw [← hr, List.filter_filter]; simp
  have woke : ∀ l : List EgressFrame, State.wokenFor { s with choices := s.choices + 1 } l = s₀.wokenFor l := fun l => by
    unfold State.wokenFor State.trained
    rw [show ({ s with choices := s.choices + 1 } : State).u = s₀.u from hu1,
      show ({ s with choices := s.choices + 1 } : State).upstream = s₀.upstream from hu2,
      show ({ s with choices := s.choices + 1 } : State).resetPin = s₀.resetPin from hu4,
      show ({ s with choices := s.choices + 1 } : State).now = s₀.now from hp.now]
  generalize hr : repliesOf (hs.flatMap hdrTags) st = reps
  have hr' : reps.filter EgressFrame.isReply = reps := by rw [← hr, repliesOf_filter]
  rcases State.inOpenOrder_cases (State.answerAll hs st) (noticeDoings b gone ended cause) s with e | e
  · rw [e, hd] at h
    have hp' : State.PresentsAlike { s with choices := s.choices + 1 } s₀ :=
      ⟨⟨hp.notices, hp.unit, hp.timer, hp.owed⟩, hp.member, hp.slot, hp.now, hp.interval⟩
    obtain ⟨⟨n1, n2, n3, n4⟩, att, a1, a2, a3, a4⟩ := State.noticesAfter_alike hp' causes (Source.isOf b gone)
    have hw := State.answerAll_woken hs st (State.noticesAfter causes (Source.isOf b gone) { s with choices := s.choices + 1 })
    rw [State.wokenFor_append _ _ _ _ a4 (after _).1 (after _).2.1, hr, woke, ← h] at hw
    have he : t.egress = s₀.egress ++ (att ++ reps) := by
      rw [h, (State.answerAll_spec hs st _).1, a1, hr, List.append_assoc]
      exact congrArg (· ++ (att ++ reps)) hu3
    refine ⟨by rw [h]; simpa using n1, by rw [h]; simpa using n2, by rw [h]; simpa using n3, by rw [h]; simpa using n4,
      ?_, ⟨_, he.symm⟩, ?_, key att reps hw (.inl he)⟩
    · rw [he, a2]; simp [noReply reps hr']
    · rw [h, State.answerAll_choices, (after _).2.2, hu5]
  · rw [e, hd] at h
    have sp := State.answerAll_spec hs st { s with choices := s.choices + 1 }
    have hp' : State.PresentsAlike (State.answerAll hs st { s with choices := s.choices + 1 }) s₀ := by
      refine ⟨⟨?_, ?_, ?_, ?_⟩, ?_, ?_, ?_, ?_⟩
      · simpa using hp.notices
      · simpa using hp.unit
      · simpa using hp.timer
      · simpa using hp.owed
      · simpa using hp.member
      · rw [← hp.slot]
        unfold State.noticeSlotFull
        rw [sp.1, hr, List.any_append]
        have : reps.any (fun f => !f.isReply) = false := by
          rw [List.any_eq_false]
          intro f hf
          have : f ∈ reps.filter EgressFrame.isReply := by rw [hr']; exact hf
          simpa using (List.mem_filter.1 this).2
        rw [this, Bool.or_false]
      · simpa using hp.now
      · simpa using hp.interval
    obtain ⟨⟨n1, n2, n3, n4⟩, att, a1, a2, a3, a4⟩ := State.noticesAfter_alike hp' causes (Source.isOf b gone)
    have hw := State.answerAll_woken hs st { s with choices := s.choices + 1 }
    rw [State.wokenFor_append { s with choices := s.choices + 1 } _ _ _ hw (by simp) (by simp), hr, woke, ← h] at a4
    have he : t.egress = s₀.egress ++ (reps ++ att) := by
      rw [h, a1, sp.1, hr, List.append_assoc]
      exact congrArg (· ++ (reps ++ att)) hu3
    have hw' : (t.u, t.upstream) = s₀.wokenFor (att ++ reps) := by
      rw [a4]
      unfold State.wokenFor
      simp [List.append_eq_nil_iff, and_comm]
    refine ⟨by rw [h]; exact n1, by rw [h]; exact n2, by rw [h]; exact n3, by rw [h]; exact n4,
      ?_, ⟨_, he.symm⟩, ?_, key att reps hw' (.inr he)⟩
    · rw [he, a2]; simp [noReply reps hr']
    · rw [h, (after _).2.2, State.answerAll_choices, hu5]

end Sys2Proof.Machine
end

