-- ==== Sys2Proof/Laws/Management.lean ====
section
/-!
SUPPORT. How the management unit carries out the head of its queue: the map of R203 at the words it writes, and the outcome of a
write of one word, of one window entry and of one configuration record.
-/

namespace Sys2Proof.Machine

open Sys2Proof

/-! ### The map of R203 -/

theorem wordRecord_branchCommand : ∀ b : Branch, wordRecord (0x054 + 48 * b.val) = .branchCommand b := by
  decide

theorem wordRecord_globalCommand : wordRecord 0x018 = .globalCommand := by
  decide

theorem wordRecord_interval : wordRecord 0x014 = .interval := by
  decide

theorem wordRecord_window : ∀ (i : WindowIx) (j : Fin 4), wordRecord (0x100 + 16 * i.val + 4 * j.val) = .window i j.val := by
  decide

theorem wordRecord_config : ∀ (b : Branch) (j : Fin 3), wordRecord (0x048 + 48 * b.val + 4 * j.val) = .config b j.val := by
  decide

/-! ### The head of the queue -/

/-- The unit executes the head of its queue where the command is that of the head's row (R202). -/
theorem State.executeHead_eq {s : State} {r : MgmtRequest} {row : MgmtRow} (h : s.mgmtQueue.head? = some r)
    (hr : r.row = row) : s.executeHead row = s.afterHeadLeaves.carryOut r := by
  obtain ⟨rest, hq⟩ : ∃ rest, s.mgmtQueue = r :: rest := by
    cases hs : s.mgmtQueue with
    | nil => simp [hs] at h
    | cons a l =>
      simp [hs] at h
      exact ⟨l, by rw [h]⟩
  unfold State.executeHead State.afterHeadLeaves
  rw [hq]
  dsimp only
  rw [if_pos hr]
  rfl

/-- The command of each row executes the head where the head is of that row. -/
theorem exec_command (row : MgmtRow) (s : State) : exec row.command s = .next (s.executeHead row) := by
  cases row <;> rfl

/-- A WRITE or POST is carried out as a write. -/
theorem State.carryOut_write (s : State) (r : MgmtRequest) (h : isWrite r.hdr = true) : s.carryOut r = s.carryOutWrite r := by
  unfold State.carryOut
  cases hr : r.hdr with
  | post => rfl
  | tagged k t => cases k <;> first | rfl | simp [hr, isWrite] at h

/-- The row of a WRITE or POST is that of what it writes. -/
theorem MgmtRequest.row_write (r : MgmtRequest) (h : isWrite r.hdr = true) : r.row = r.writeRow := by
  unfold MgmtRequest.row
  cases hr : r.hdr with
  | post => rfl
  | tagged k t => cases k <;> first | rfl | simp [hr, isWrite] at h

/-- The execution of a write by the command of its row. -/
theorem exec_write {s : State} {r : MgmtRequest} (h : s.mgmtQueue.head? = some r) (hw : isWrite r.hdr = true) :
    exec r.row.command s = .next (s.afterHeadLeaves.carryOutWrite r) := by
  rw [exec_command, State.executeHead_eq h rfl, State.carryOut_write _ _ hw]

/-- A refused write is counted and answered (R205). -/
theorem State.carryOutWrite_refused {s : State} {r : MgmtRequest} {st : Status} (h : s.judgeWrite r = some st) :
    s.carryOutWrite r = s.writeRefused r.hdr st := by
  unfold State.carryOutWrite
  rw [h]
  rfl

/-! ### A write of one word -/

/-- One word covers one record. -/
theorem one_records (h : ReqHeader) (o : Nat) (w : Word) (x : WordRecord) (hx : wordRecord o = x) :
    MgmtRequest.records { hdr := h, offset := o, count := 1, data := [w] } = [x] := by
  simp [MgmtRequest.records, hx]

/-- The word that a write of one word carries. -/
theorem one_wordAt (h : ReqHeader) (o : Nat) (w : Word) :
    MgmtRequest.wordAt { hdr := h, offset := o, count := 1, data := [w] } o = w := by
  simp [MgmtRequest.wordAt]

/-- A write of one command word is judged by the command that the word names (R205, R208). -/
theorem State.judgeWrite_command (s : State) (h : ReqHeader) (o : Nat) (w : Word) (x : WordRecord)
    (hx : wordRecord o = x) (hc : x.isCommand = true) (c : Option Command)
    (hn : MgmtRequest.command? { hdr := h, offset := o, count := 1, data := [w] } x = c) :
    s.judgeWrite { hdr := h, offset := o, count := 1, data := [w] } =
      if c = none then some .badentry else if c.all s.commandAccepted then none else some .refused := by
  unfold State.judgeWrite
  rw [one_records h o w x hx]
  cases x <;> simp [WordRecord.isCommand] at hc <;>
    simp [MgmtRequest.coversPart, WordRecord.isCommand, State.badEntry, State.refusedNow, hn] <;>
    cases c <;> simp <;> split <;> simp_all

/-- A command word that names no command is BADENTRY (R208). -/
theorem State.carryOutWrite_unknown (s : State) (h : ReqHeader) (o : Nat) (w : Word) (x : WordRecord)
    (hx : wordRecord o = x) (hc : x.isCommand = true)
    (hn : MgmtRequest.command? { hdr := h, offset := o, count := 1, data := [w] } x = none) :
    s.carryOutWrite { hdr := h, offset := o, count := 1, data := [w] } = s.writeRefused h .badentry :=
  State.carryOutWrite_refused (by rw [s.judgeWrite_command h o w x hx hc none hn]; rfl)

/-- A command that its owner does not accept is REFUSED (R208). -/
theorem State.carryOutWrite_turnedAway (s : State) (h : ReqHeader) (o : Nat) (w : Word) (x : WordRecord) (c : Command)
    (hx : wordRecord o = x) (hc : x.isCommand = true)
    (hn : MgmtRequest.command? { hdr := h, offset := o, count := 1, data := [w] } x = some c)
    (ha : s.commandAccepted c = false) :
    s.carryOutWrite { hdr := h, offset := o, count := 1, data := [w] } = s.writeRefused h .refused :=
  State.carryOutWrite_refused (by rw [s.judgeWrite_command h o w x hx hc (some c) hn]; simp [ha])

/-- An accepted command takes effect, and the write is counted and answered OK (R206, R208). -/
theorem State.carryOutWrite_command (s : State) (h : ReqHeader) (o : Nat) (w : Word) (x : WordRecord) (c : Command)
    (hx : wordRecord o = x) (hc : x.isCommand = true)
    (hn : MgmtRequest.command? { hdr := h, offset := o, count := 1, data := [w] } x = some c)
    (ha : s.commandAccepted c = true) :
    s.carryOutWrite { hdr := h, offset := o, count := 1, data := [w] } =
      State.answer h .ok (State.countWrite (some c) (s.applyCommand c)) := by
  have hj : s.judgeWrite { hdr := h, offset := o, count := 1, data := [w] } = none := by
    rw [s.judgeWrite_command h o w x hx hc (some c) hn]
    simp [ha]
  have happ : State.applyRecord { hdr := h, offset := o, count := 1, data := [w] } s x = s.applyCommand c := by
    cases x <;> simp [WordRecord.isCommand] at hc <;> simp [State.applyRecord, hn]
  unfold State.carryOutWrite
  rw [hj, one_records h o w x hx]
  simp only [List.findSome?_cons, List.foldl_cons, List.foldl_nil, hn, happ]

end Sys2Proof.Machine
end

