-- ==== Sys2Proof/WellFormed.lean ====
section
/-!
DEFINITION. Which commands are commands of the part: a frame's fields lie in the ranges the spec gives them. Every other
range is kept by the type of the field (a branch, a port, a byte).
-/

namespace Sys2Proof

/-- The largest size exponent of a DESCRIPTOR (R91). -/
def maxSizeExponent : Nat := 31

/-- The fields of the command lie in the ranges the spec gives them: 0 to 16 data words in a request or a REPLY (R188;
a longer frame is bad, R187), and a size exponent of 0 to 31 in a DESCRIPTOR (R91). -/
def WellFormed : Instr → Bool
  | .requestFrame _ _ _ data => decide (data.length ≤ Config.maxWords)
  | .reply _ _ _ _ data => decide (data.length ≤ Config.maxWords)
  | .descriptor _ _ _ sizeExp _ _ => decide (sizeExp.toNat ≤ maxSizeExponent)
  | .powerOnReset _ _ | .resetAsserted | .uCreditSent | .classifierTake | .uIdentify | .uAssign _ | .uRelease _
  | .uClear | .uHush | .uUnexpectedFrame _ | .uCreditReceived _ | .egressFrameSent | .badFrame _ | .farEndTrains _
  | .lossOfSignal _ | .unknownFrameDiscarded _ | .branchAwayFrame _ _ | .trainingAttemptTimeout _ | .linkEntersUp _
  | .wakeTaken _ | .quietRelistenTimeout _ _ | .credit _ _ | .issue _ | .ageDeadlineExpiry _ | .replyDeadlineExpiry _
  | .orphanDeadlineExpiry _ | .assigned _ _ | .empty _ _ | .identifyTimerExpiry _ | .chainbreak _ _ | .chainmend _ _
  | .attention _ _ _ | .branchClearSent _ | .hushSent _ | .drainComplete _ | .wakeTimerExpiry _ | .rePresentTimerExpiry
  | .managementRead | .managementWrite | .windowEntryWrite | .configurationWrite | .rePresentIntervalWrite
  | .managementSwap | .enumerate | .release | .branchReset | .dormant | .wake | .noticeAck | .clearCounters
  | .branchFrameSent _ | .uMemberFrameSent => true

end Sys2Proof
end

