-- ==== Sys2Proof/Laws/PerInstr.lean ====
section
/-!
SUPPORT. What holds of every command as syntax, one lemma per command: the command is well-formed exactly where what it carries in
from outside lies in the ranges the spec gives, and no word of the opcode table spells it.
-/

namespace Sys2Proof.Laws.CommandRow

open Sys2Proof

/-- The data words that a command brings in from a frame: those of a request and of a REPLY (R188). -/
def dataWords : Instr → List Word
  | .requestFrame _ _ _ data => data
  | .reply _ _ _ _ data => data
  | _ => []

/-- The size exponent that a command brings in: that of a DESCRIPTOR (R91). -/
def sizeExponent : Instr → Nat
  | .descriptor _ _ _ sizeExp _ _ => sizeExp.toNat
  | _ => 0

/-- A command is well-formed exactly where it carries at most 16 data words and a size exponent of at most 31 (R91, R188), and
the table, whose rows have no bits, spells it by no word (assumption 2). -/
def Statement (i : Instr) : Prop :=
  (WellFormed i = true ↔ (dataWords i).length ≤ 16 ∧ sizeExponent i ≤ 31) ∧
    ∀ nbits w : Nat, decodeTableWord nbits w ≠ some i

/-- A command that brings in neither data words nor a size exponent. -/
theorem statement_of_plain {i : Instr} (h : WellFormed i = true) (hd : dataWords i = []) (hs : sizeExponent i = 0) :
    Statement i :=
  ⟨⟨fun _ => by simp [hd, hs], fun _ => h⟩, fun _ _ e => nomatch e⟩

/-- A command that brings in data words. -/
theorem statement_of_data {i : Instr} (h : WellFormed i = decide ((dataWords i).length ≤ 16))
    (hs : sizeExponent i = 0) : Statement i :=
  ⟨by rw [h, hs]; simp, fun _ _ e => nomatch e⟩

theorem powerOnReset (span1 span0 : Bool) : Statement (.powerOnReset span1 span0) := statement_of_plain rfl rfl rfl
theorem resetAsserted : Statement .resetAsserted := statement_of_plain rfl rfl rfl
theorem requestFrame (hdr : ReqHeader) (addr : Word) (count : Byte) (data : List Word) :
    Statement (.requestFrame hdr addr count data) :=
  statement_of_data rfl rfl
theorem uCreditSent : Statement .uCreditSent := statement_of_plain rfl rfl rfl
theorem classifierTake : Statement .classifierTake := statement_of_plain rfl rfl rfl
theorem uIdentify : Statement .uIdentify := statement_of_plain rfl rfl rfl
theorem uAssign (base : Word) : Statement (.uAssign base) := statement_of_plain rfl rfl rfl
theorem uRelease (base : Word) : Statement (.uRelease base) := statement_of_plain rfl rfl rfl
theorem uClear : Statement .uClear := statement_of_plain rfl rfl rfl
theorem uHush : Statement .uHush := statement_of_plain rfl rfl rfl
theorem uUnexpectedFrame (kind : TowardKind) : Statement (.uUnexpectedFrame kind) := statement_of_plain rfl rfl rfl
theorem uCreditReceived (increment : Byte) : Statement (.uCreditReceived increment) := statement_of_plain rfl rfl rfl
theorem egressFrameSent : Statement .egressFrameSent := statement_of_plain rfl rfl rfl
theorem badFrame (p : Port) : Statement (.badFrame p) := statement_of_plain rfl rfl rfl
theorem farEndTrains (p : Port) : Statement (.farEndTrains p) := statement_of_plain rfl rfl rfl
theorem lossOfSignal (p : Port) : Statement (.lossOfSignal p) := statement_of_plain rfl rfl rfl
theorem unknownFrameDiscarded (p : Port) : Statement (.unknownFrameDiscarded p) := statement_of_plain rfl rfl rfl
theorem branchAwayFrame (b : Branch) (kind : AwayKind) : Statement (.branchAwayFrame b kind) :=
  statement_of_plain rfl rfl rfl
theorem trainingAttemptTimeout (p : Port) : Statement (.trainingAttemptTimeout p) := statement_of_plain rfl rfl rfl
theorem linkEntersUp (p : Port) : Statement (.linkEntersUp p) := statement_of_plain rfl rfl rfl
theorem wakeTaken (p : Port) : Statement (.wakeTaken p) := statement_of_plain rfl rfl rfl
theorem quietRelistenTimeout (b : Branch) (stillSignalling : Bool) :
    Statement (.quietRelistenTimeout b stillSignalling) :=
  statement_of_plain rfl rfl rfl
theorem credit (b : Branch) (increment : Byte) : Statement (.credit b increment) := statement_of_plain rfl rfl rfl
theorem issue (b : Branch) : Statement (.issue b) := statement_of_plain rfl rfl rfl
theorem ageDeadlineExpiry (b : Branch) : Statement (.ageDeadlineExpiry b) := statement_of_plain rfl rfl rfl
theorem reply (b : Branch) (tag : UTag) (status : Byte) (detail : Byte) (data : List Word) :
    Statement (.reply b tag status detail data) :=
  statement_of_data rfl rfl
theorem replyDeadlineExpiry (e : EntryIx) : Statement (.replyDeadlineExpiry e) := statement_of_plain rfl rfl rfl
theorem orphanDeadlineExpiry (e : EntryIx) : Statement (.orphanDeadlineExpiry e) := statement_of_plain rfl rfl rfl
theorem descriptor (b : Branch) (cls : BitVec 16) (identity : Word) (sizeExp : Byte) (flags : MemberFlags) (hop : Byte) :
    Statement (.descriptor b cls identity sizeExp flags hop) :=
  ⟨⟨fun h => ⟨Nat.zero_le _, of_decide_eq_true h⟩, fun h => decide_eq_true h.2⟩, fun _ _ e => nomatch e⟩
theorem assigned (b : Branch) (hop : Byte) : Statement (.assigned b hop) := statement_of_plain rfl rfl rfl
theorem empty (b : Branch) (hop : Byte) : Statement (.empty b hop) := statement_of_plain rfl rfl rfl
theorem identifyTimerExpiry (b : Branch) : Statement (.identifyTimerExpiry b) := statement_of_plain rfl rfl rfl
theorem chainbreak (b : Branch) (hop : Byte) : Statement (.chainbreak b hop) := statement_of_plain rfl rfl rfl
theorem chainmend (b : Branch) (hop : Byte) : Statement (.chainmend b hop) := statement_of_plain rfl rfl rfl
theorem attention (b : Branch) (code : Byte) (hop : Byte) : Statement (.attention b code hop) :=
  statement_of_plain rfl rfl rfl
theorem branchClearSent (b : Branch) : Statement (.branchClearSent b) := statement_of_plain rfl rfl rfl
theorem hushSent (b : Branch) : Statement (.hushSent b) := statement_of_plain rfl rfl rfl
theorem drainComplete (b : Branch) : Statement (.drainComplete b) := statement_of_plain rfl rfl rfl
theorem wakeTimerExpiry (b : Branch) : Statement (.wakeTimerExpiry b) := statement_of_plain rfl rfl rfl
theorem rePresentTimerExpiry : Statement .rePresentTimerExpiry := statement_of_plain rfl rfl rfl
theorem managementRead : Statement .managementRead := statement_of_plain rfl rfl rfl
theorem managementWrite : Statement .managementWrite := statement_of_plain rfl rfl rfl
theorem windowEntryWrite : Statement .windowEntryWrite := statement_of_plain rfl rfl rfl
theorem configurationWrite : Statement .configurationWrite := statement_of_plain rfl rfl rfl
theorem rePresentIntervalWrite : Statement .rePresentIntervalWrite := statement_of_plain rfl rfl rfl
theorem managementSwap : Statement .managementSwap := statement_of_plain rfl rfl rfl
theorem enumerate : Statement .enumerate := statement_of_plain rfl rfl rfl
theorem release : Statement .release := statement_of_plain rfl rfl rfl
theorem branchReset : Statement .branchReset := statement_of_plain rfl rfl rfl
theorem dormant : Statement .dormant := statement_of_plain rfl rfl rfl
theorem wake : Statement .wake := statement_of_plain rfl rfl rfl
theorem noticeAck : Statement .noticeAck := statement_of_plain rfl rfl rfl
theorem clearCounters : Statement .clearCounters := statement_of_plain rfl rfl rfl
theorem branchFrameSent (b : Branch) : Statement (.branchFrameSent b) := statement_of_plain rfl rfl rfl
theorem uMemberFrameSent : Statement .uMemberFrameSent := statement_of_plain rfl rfl rfl

end Sys2Proof.Laws.CommandRow
end

