-- ==== Sys2Proof/Laws/Search.lean ====
section
/-!
SUPPORT. What the searches of the part find: the lowest free branch tag, the lowest FREE entry, the earliest age deadline, the
entry a REPLY matches, and the base at which a member is placed.
-/

namespace Sys2Proof.Machine

open Sys2Proof

/-! ### Branch tags and entries -/

/-- An entry holds a branch tag on a branch exactly where the tag is the one it is said to hold there. -/
theorem PendingEntry.holdsTag_iff (b : Branch) (t : BTag) (e : PendingEntry) :
    e.holdsTag b t = true ↔ e.tagOn b = some t := by
  cases e <;> simp [PendingEntry.holdsTag, PendingEntry.tagOn]

/-- A tag is held on a branch exactly where some entry holds it. -/
theorem State.holdsTag_any (s : State) (b : Branch) (t : BTag) :
    s.entries.toList.any (PendingEntry.holdsTag b t) = true ↔ t ∈ s.heldBranchTags b := by
  rw [List.any_eq_true]
  simp only [State.heldBranchTags, List.mem_filterMap, PendingEntry.holdsTag_iff]

/-- A number is the first of a rising range that meets a condition exactly where no lower one does. -/
theorem find_range (n : Nat) (p : Nat → Bool) (k : Nat) :
    (List.range n).find? p = some k ↔ k < n ∧ p k = true ∧ ∀ j, j < k → p j = false := by
  rw [List.find?_range_eq_some]
  simp [and_left_comm]

/-- The search for a branch tag answers the lowest-numbered free one (R44, R48). -/
theorem State.freeTag_some (s : State) (b : Branch) (t : BTag) : s.freeTag b = some t ↔ s.isLowestFreeTag b t := by
  unfold State.freeTag State.isLowestFreeTag
  rw [List.find?_map, Option.map_eq_some_iff]
  have hp : ∀ u : BTag, (!(s.entries.toList.any (PendingEntry.holdsTag b u))) = true ↔ u ∉ s.heldBranchTags b := by
    intro u
    rw [Bool.not_eq_true', ← Bool.not_eq_true, State.holdsTag_any]
  have hn : ∀ u : BTag, (!(s.entries.toList.any (PendingEntry.holdsTag b u))) = false ↔ u ∈ s.heldBranchTags b := by
    intro u
    rw [Bool.not_eq_false', State.holdsTag_any]
  constructor
  · rintro ⟨k, hk, rfl⟩
    rw [find_range] at hk
    obtain ⟨h1, h2, h3⟩ := hk
    refine ⟨(hp _).1 h2, fun u hu => ?_⟩
    have hlt : u.toNat < k := by
      have : u.toNat < (BitVec.ofNat 4 k).toNat := hu
      rw [BitVec.toNat_ofNat] at this
      omega
    have := (hn _).1 (h3 u.toNat hlt)
    simpa using this
  · rintro ⟨h1, h2⟩
    refine ⟨t.toNat, ?_, by simp⟩
    rw [find_range]
    refine ⟨t.isLt, ?_, fun j hj => ?_⟩
    · rw [Function.comp]
      apply (hp _).2
      simpa using h1
    · apply (hn _).2
      apply h2
      show (BitVec.ofNat 4 j).toNat < t.toNat
      rw [BitVec.toNat_ofNat]
      have := t.isLt
      omega

/-- The search for a branch tag answers none exactly where every tag is held. -/
theorem State.freeTag_none (s : State) (b : Branch) : s.freeTag b = none ↔ ∀ t : BTag, t ∈ s.heldBranchTags b := by
  unfold State.freeTag
  rw [List.find?_eq_none]
  constructor
  · intro h t
    have := h t (List.mem_map.2 ⟨t.toNat, List.mem_range.2 t.isLt, by simp⟩)
    rwa [Bool.not_eq_true', Bool.not_eq_false, State.holdsTag_any] at this
  · intro h t _
    rw [Bool.not_eq_true', Bool.not_eq_false, State.holdsTag_any]
    exact h t

/-- The search for an entry answers the lowest-numbered FREE one (R48). -/
theorem State.freeEntry_some (s : State) (e : EntryIx) : s.freeEntry = some e ↔ s.isLowestFreeEntry e := by
  unfold State.freeEntry State.isLowestFreeEntry
  rw [find_lowest]
  simp

/-- The search for an entry answers none exactly where no entry is FREE. -/
theorem State.freeEntry_none (s : State) : s.freeEntry = none ↔ ∀ e : EntryIx, s.entry e ≠ .free := by
  unfold State.freeEntry
  rw [find_none]
  simp

/-- An entry for a REPLY holds its tag on its branch; where there is none, no entry does (R65). -/
theorem State.entryFor_some (s : State) (b : Branch) (tag : UTag) (e : EntryIx) (h : s.entryFor b tag = some e) :
    tag.toNat < 16 ∧ (s.entry e).tagOn b = some (BitVec.ofNat 4 tag.toNat) := by
  unfold State.entryFor at h
  split at h
  · rename_i ht
    exact ⟨ht, (PendingEntry.holdsTag_iff _ _ _).1 ((find_lowest _ _).1 h).1⟩
  · exact absurd h (by simp)

theorem State.entryFor_none (s : State) (b : Branch) (tag : UTag) :
    s.entryFor b tag = none ↔ ∀ t ∈ s.heldBranchTags b, t.toNat ≠ tag.toNat := by
  unfold State.entryFor
  split
  · rename_i ht
    rw [find_none]
    constructor
    · intro h t hm he
      obtain ⟨x, hx, hxt⟩ := List.mem_filterMap.1 hm
      obtain ⟨i, hi, rfl⟩ := List.getElem_of_mem hx
      have hi' : i < 32 := by simpa using hi
      have := h ⟨i, hi'⟩
      rw [← Bool.not_eq_true, PendingEntry.holdsTag_iff] at this
      apply this
      simp only [Vector.getElem_toList] at hxt
      simp only [State.entry]
      rw [← he]
      simpa using hxt
    · intro h i
      rw [← Bool.not_eq_true, PendingEntry.holdsTag_iff]
      intro hx
      refine h (BitVec.ofNat 4 tag.toNat) ?_ ?_
      · exact List.mem_filterMap.2 ⟨s.entry i, by simp [State.entry], hx⟩
      · rw [BitVec.toNat_ofNat]
        omega
  · rename_i ht
    simp only [true_iff]
    intro t _ he
    have := t.isLt
    omega

/-! ### Age deadlines -/

/-- The earliest deadline is one of the slots', and none is earlier. -/
theorem earliestDeadline_some (l : List Slot) (d : Time) :
    earliestDeadline l = some d ↔ (∃ q ∈ l, q.ageDeadline = d) ∧ ∀ q ∈ l, d ≤ q.ageDeadline := by
  induction l generalizing d with
  | nil => simp [earliestDeadline]
  | cons q l ih =>
    unfold earliestDeadline
    cases h : earliestDeadline l with
    | none =>
      have hl : l = [] := by
        cases l with
        | nil => rfl
        | cons a l =>
          unfold earliestDeadline at h
          cases h2 : earliestDeadline l <;> simp [h2] at h
      subst hl
      simp
      exact fun h => le_of_eq h.symm
    | some k =>
      obtain ⟨⟨r, hr, hrk⟩, hk⟩ := (ih k).1 h
      simp only [Option.some.injEq, List.mem_cons]
      constructor
      · rintro rfl
        refine ⟨?_, ?_⟩
        · rcases le_total q.ageDeadline k with h1 | h1
          · exact ⟨q, .inl rfl, (min_eq_left h1).symm⟩
          · exact ⟨r, .inr hr, by rw [hrk, min_eq_right h1]⟩
        · rintro x (rfl | hx)
          · exact min_le_left _ _
          · exact le_trans (min_le_right _ _) (hk x hx)
      · rintro ⟨⟨x, hx, rfl⟩, hall⟩
        apply le_antisymm
        · rcases hx with rfl | hx
          · exact min_le_left _ _
          · exact le_trans (min_le_right _ _) (hk x hx)
        · exact le_min (hall q (.inl rfl)) (hrk ▸ hall r (.inr hr))


/-! ### Placement (R95) -/

/-- Candidate j shares no address with a held range. -/
def clearOf (held : List (Nat × Nat)) (k base j : Nat) : Prop :=
  ∀ h ∈ held, overlaps (base + j * 2 ^ k) k h = false

/-- Where candidate j overlaps a held range, so does every candidate up to the first past that range. -/
theorem candidate_past {base k j : Nat} {h : Nat × Nat} (ho : overlaps (base + j * 2 ^ k) k h = true) :
    j < (h.1 + 2 ^ h.2 - base + 2 ^ k - 1) / 2 ^ k ∧
      h.1 + 2 ^ h.2 ≤ base + (h.1 + 2 ^ h.2 - base + 2 ^ k - 1) / 2 ^ k * 2 ^ k ∧
      ∀ i, j ≤ i → i < (h.1 + 2 ^ h.2 - base + 2 ^ k - 1) / 2 ^ k → overlaps (base + i * 2 ^ k) k h = true := by
  have hk : 0 < 2 ^ k := Nat.two_pow_pos k
  unfold overlaps at ho ⊢
  simp only [decide_eq_true_eq] at ho ⊢
  obtain ⟨h1, h2⟩ := ho
  generalize h.1 + 2 ^ h.2 = e at h1 ⊢
  generalize 2 ^ k = w at hk h1 h2 ⊢
  refine ⟨?_, ?_, fun i hi hj => ⟨?_, ?_⟩⟩
  · rw [Nat.lt_div_iff_mul_lt hk]
    omega
  · have := Nat.div_add_mod (e - base + w - 1) w
    have := Nat.mod_lt (e - base + w - 1) hk
    rw [Nat.mul_comm ((e - base + w - 1) / w) w]
    omega
  · rw [Nat.lt_div_iff_mul_lt hk] at hj
    omega
  · have : j * w ≤ i * w := Nat.mul_le_mul_right w hi
    omega

/-- Fewer held ranges end beyond the candidate that is past one of them. -/
theorem held_past {held : List (Nat × Nat)} {c c' : Nat} {h : Nat × Nat} (hm : h ∈ held) (h1 : c < h.1 + 2 ^ h.2)
    (h2 : h.1 + 2 ^ h.2 ≤ c') :
    held.countP (fun g => decide (c' < g.1 + 2 ^ g.2)) < held.countP (fun g => decide (c < g.1 + 2 ^ g.2)) := by
  induction held with
  | nil => simp at hm
  | cons g l ih =>
    have hle : l.countP (fun g => decide (c' < g.1 + 2 ^ g.2)) ≤ l.countP (fun g => decide (c < g.1 + 2 ^ g.2)) :=
      List.countP_mono_left fun x _ hx => by
        simp only [decide_eq_true_eq] at hx ⊢
        omega
    rcases List.mem_cons.1 hm with rfl | hm
    · rw [List.countP_cons_of_neg (by simpa using h2), List.countP_cons_of_pos (by simpa using h1)]
      omega
    · have := ih hm
      rw [List.countP_cons, List.countP_cons]
      by_cases hc : c' < g.1 + 2 ^ g.2
      · rw [if_pos (by simpa using hc), if_pos (by simp; omega)]
        omega
      · rw [if_neg (by simpa using hc)]
        split <;> omega

/-- The search for a base answers the lowest clear candidate that ends by the limit, from candidate j on; with enough fuel for
the held ranges that end beyond it, it answers none only where there is no such candidate (R95). -/
theorem firstFit_spec (held : List (Nat × Nat)) (k base limit fuel j : Nat)
    (hf : held.countP (fun g => decide (base + j * 2 ^ k < g.1 + 2 ^ g.2)) ≤ fuel) :
    (∀ m, j ≤ m → clearOf held k base m → base + m * 2 ^ k + 2 ^ k ≤ limit →
      (∀ i, j ≤ i → i < m → ¬clearOf held k base i) →
      firstFit held k base limit fuel (base + j * 2 ^ k) = some (base + m * 2 ^ k)) ∧
    ((∀ m, j ≤ m → base + m * 2 ^ k + 2 ^ k ≤ limit → ¬clearOf held k base m) →
      firstFit held k base limit fuel (base + j * 2 ^ k) = none) := by
  induction fuel generalizing j with
  | zero =>
    have hc : clearOf held k base j := fun h hm => by
      have := List.countP_eq_zero.1 (Nat.le_zero.1 hf) h hm
      simp only [decide_eq_true_eq] at this
      simp [overlaps, this]
    have hn : held.find? (overlaps (base + j * 2 ^ k) k) = none := by
      rw [List.find?_eq_none]
      exact fun h hm => by simp [hc h hm]
    unfold firstFit
    rw [hn]
    refine ⟨fun m hj _ hl hi => ?_, fun hn => ?_⟩
    · have : m = j := by
        by_contra h
        exact hi j (le_refl j) (by omega) hc
      subst this
      rw [if_neg (by omega)]
    · by_cases hl : limit < base + j * 2 ^ k + 2 ^ k
      · rw [if_pos hl]
      · exact absurd hc (hn j (le_refl j) (by omega))
  | succ f ih =>
    unfold firstFit
    cases ho : held.find? (overlaps (base + j * 2 ^ k) k) with
    | none =>
      have hc : clearOf held k base j := fun h hm => by simpa using List.find?_eq_none.1 ho h hm
      refine ⟨fun m hj _ hl hi => ?_, fun hn => ?_⟩
      · have : m = j := by
          by_contra h
          exact hi j (le_refl j) (by omega) hc
        subst this
        rw [if_neg (by omega)]
      · by_cases hl : limit < base + j * 2 ^ k + 2 ^ k
        · rw [if_pos hl]
        · exact absurd hc (hn j (le_refl j) (by omega))
    | some h =>
      have hov := List.find?_some ho
      have hmem := List.mem_of_find?_eq_some ho
      obtain ⟨p1, p2, p3⟩ := candidate_past hov
      have hend : base + j * 2 ^ k < h.1 + 2 ^ h.2 := by
        unfold overlaps at hov
        simp only [decide_eq_true_eq] at hov
        exact hov.1
      have hcount := held_past hmem hend p2
      obtain ⟨ih1, ih2⟩ := ih ((h.1 + 2 ^ h.2 - base + 2 ^ k - 1) / 2 ^ k) (by omega)
      have hblock : ∀ i, j ≤ i → i < (h.1 + 2 ^ h.2 - base + 2 ^ k - 1) / 2 ^ k → ¬clearOf held k base i :=
        fun i hi hlt hc => absurd (hc h hmem) (by simp [p3 i hi hlt])
      refine ⟨fun m hj hc hl hi => ?_, fun hn => ?_⟩
      · have hge : (h.1 + 2 ^ h.2 - base + 2 ^ k - 1) / 2 ^ k ≤ m := by
          by_contra hlt
          exact hblock m hj (by omega) hc
        have hle : j * 2 ^ k ≤ m * 2 ^ k := Nat.mul_le_mul_right _ hj
        rw [if_neg (by omega)]
        exact ih1 m hge hc hl fun i hi1 hi2 => hi i (by omega) hi2
      · by_cases hl : limit < base + j * 2 ^ k + 2 ^ k
        · rw [if_pos hl]
        · rw [if_neg hl]
          exact ih2 fun m hm => hn m (by omega)

/-- A member is placed at the lowest clear candidate that ends in the pool; where there is none it is not placed (R95). -/
theorem BranchUnit.placement_spec (u : BranchUnit) (p : Position) (k : Nat) :
    (∀ j, u.fitsPool k j → u.isClear p k j → (∀ j', j' < j → ¬u.isClear p k j') →
      u.placement p k = some (u.candidate k j)) ∧
    ((∀ j, u.fitsPool k j → ¬u.isClear p k j) → u.placement p k = none) := by
  have h := firstFit_spec (u.heldRanges p) k u.config.poolBase.toNat (u.config.poolBase.toNat + 2 ^ u.config.poolExp)
    (u.heldRanges p).length 0 (by exact List.countP_le_length)
  simp only [Nat.zero_mul, Nat.add_zero] at h
  exact ⟨fun j hf hc hl => h.1 j (Nat.zero_le j) hc hf fun i _ hi => hl i hi, fun hn => h.2 fun m _ hl => hn m hl⟩

end Sys2Proof.Machine
end

