-- ==== Sys2Proof/Laws/Timers.lean ====
section
/-!
SUPPORT. When a timer may run out: no age deadline and no reply deadline comes before it.
-/

namespace Sys2Proof.Machine

open Sys2Proof

/-- A timer that may be the next to run out does. -/
@[simp] theorem State.runOut_of_reaches (s : State) (d : Time) (act : State → State) (h : s.reaches d = true) :
    s.runOut d act = act (s.advanceTo d) :=
  if_pos h

/-- Where an age or reply deadline comes first, nothing happens yet. -/
@[simp] theorem State.runOut_of_not (s : State) (d : Time) (act : State → State) (h : s.reaches d = false) :
    s.runOut d act = s :=
  if_neg (by simp [h])

/-- A timer may run out at d where no queued slot's age deadline and no WAITING entry's reply deadline is before d. -/
theorem State.reaches_iff (s : State) (d : Time) : s.reaches d = true ↔
    (∀ b : Branch, ∀ q ∈ (s.br b).queue, d ≤ q.ageDeadline) ∧
      ∀ (e : EntryIx) (c : Carried) (t : UTag) (e' : Time), s.entry e = .waiting c t e' → d ≤ e' := by
  simp only [State.reaches, State.requestDeadlines, List.all_eq_true, List.mem_append, List.mem_flatMap, List.mem_map,
    List.mem_filterMap, decide_eq_true_eq]
  constructor
  · intro h
    refine ⟨fun b q hq => h _ (.inl ⟨s.br b, ?_, q, hq, rfl⟩), fun e c t e' he => h _ (.inr ⟨s.entry e, ?_, ?_⟩)⟩
    · unfold State.br
      simp
    · unfold State.entry
      simp
    · rw [he]
      rfl
  · rintro ⟨h1, h2⟩ x (⟨u, hu, q, hq, rfl⟩ | ⟨e, he, hx⟩)
    · rw [Vector.mem_toList_iff, Vector.mem_iff_getElem] at hu
      obtain ⟨i, hi, rfl⟩ := hu
      exact h1 ⟨i, hi⟩ q hq
    · rw [Vector.mem_toList_iff, Vector.mem_iff_getElem] at he
      obtain ⟨i, hi, rfl⟩ := he
      cases hc : s.entries[i] with
      | free => rw [hc] at hx; cases hx
      | orphaned c d' st => rw [hc] at hx; cases hx
      | waiting c t e' =>
        rw [hc] at hx
        cases hx
        exact h2 ⟨i, hi⟩ c t x hc

end Sys2Proof.Machine
end

