-- ==== Sys2Proof/Laws/Upstream.lean ====
section
/-!
SUPPORT. What the U port begins to send, and what each command of a sending, each take and each hand-off makes of it.
-/

namespace Sys2Proof.Machine

open Sys2Proof

/-! ### Beginning a frame -/

/-- Everything that beginning a frame can do. -/
theorem UPort.begin_cases (w : Bool) (u : UPort) :
    ((u.port.link ≠ .up ∨ u.sending ≠ none) ∧ u.begin w = u) ∨
    (u.port.link = .up ∧ u.sending = none ∧
      ((u.creditTurn = true ∧ u.begin w = { u with sending := some (.credit u.owed), unsent := u.aheadOfCredit }) ∨
        (u.creditTurn = false ∧ u.unsent ≠ [] ∧ u.begin w = { u with sending := some .member }) ∨
        (u.creditTurn = false ∧ u.unsent = [] ∧ w = true ∧ u.begin w = { u with sending := some .egress }) ∨
        (u.creditTurn = false ∧ u.unsent = [] ∧ w = false ∧ u.begin w = u))) := by
  unfold UPort.begin
  by_cases h : u.port.link ≠ .up ∨ u.sending ≠ none
  · exact .inl ⟨h, if_pos h⟩
  · obtain ⟨hl, hs⟩ := not_or.1 h
    refine .inr ⟨not_not.1 hl, not_not.1 hs, ?_⟩
    cases hc : u.creditTurn <;> by_cases hu : u.unsent = [] <;> cases w <;> simp_all

@[simp] theorem UPort.begin_port (w : Bool) (u : UPort) : (u.begin w).port = u.port := by
  unfold UPort.begin; split_ifs <;> rfl

@[simp] theorem UPort.begin_granted (w : Bool) (u : UPort) : (u.begin w).granted = u.granted := by
  unfold UPort.begin; split_ifs <;> rfl

@[simp] theorem UPort.begin_owed (w : Bool) (u : UPort) : (u.begin w).owed = u.owed := by
  unfold UPort.begin; split_ifs <;> rfl

/-- Beginning a frame hands none and sends none: the frames that wait stay, in their order. -/
@[simp] theorem UPort.begin_frames (w : Bool) (u : UPort) :
    (u.begin w).unsent.map HandedFrame.frame = u.unsent.map HandedFrame.frame := by
  unfold UPort.begin; split_ifs <;> simp [UPort.aheadOfCredit]

@[simp] theorem State.uBegun_port (s : State) : s.uBegun.port = s.u.port := UPort.begin_port _ _
@[simp] theorem State.uBegun_granted (s : State) : s.uBegun.granted = s.u.granted := UPort.begin_granted _ _
@[simp] theorem State.uBegun_owed (s : State) : s.uBegun.owed = s.u.owed := UPort.begin_owed _ _

/-- A frame begun is the one on the line until it has been sent. -/
theorem UPort.begin_of_sending {w : Bool} {u : UPort} (h : u.sending ≠ none) : u.begin w = u :=
  if_pos (.inr h)

/-- A U that is not UP begins nothing. -/
theorem State.uBegun_of_not_up {s : State} (h : s.u.port.link ≠ .up) : s.uBegun = s.u :=
  if_pos (.inl h)

/-- On a U that is not UP, only a frame begun before is being sent. -/
theorem State.onLineU_of_not_up {s : State} (h : s.u.port.link ≠ .up) : s.onLineU = s.u.sending := by
  rw [State.onLineU, State.uBegun_of_not_up h]

/-- A frame begun is the one on the line, whatever the link. -/
theorem State.onLineU_of_sending {s : State} (h : s.u.sending ≠ none) : s.onLineU = s.u.sending :=
  congrArg UPort.sending (UPort.begin_of_sending h)

/-- What U begins is there, where what it had begun is there. -/
theorem State.uBegun_is_there {s : State} (h : s.sendsWhatIsThere = true) :
    ({ s with u := s.uBegun } : State).sendsWhatIsThere = true := by
  rcases UPort.begin_cases (s.egress != []) s.u with ⟨-, hb⟩ | ⟨hl, -, ⟨hc, hb⟩ | ⟨-, hu, hb⟩ | ⟨-, -, he, hb⟩ | ⟨-, -, -, hb⟩⟩
  · rw [State.uBegun, hb]; exact h
  · simp only [UPort.creditTurn, Bool.and_eq_true, decide_eq_true_eq] at hc
    simp [State.uBegun, hb, State.sendsWhatIsThere, hl, hc.1]
  · simp [State.uBegun, hb, State.sendsWhatIsThere, hl, hu]
  · simp [State.uBegun, hb, State.sendsWhatIsThere, hl]
    simpa using he
  · rw [State.uBegun, hb]; exact h

/-! ### HUSH -/

/-- The HUSH leaves the frame on the line as it was, whether or not U signals wake. -/
theorem State.onLineU_of_hush (s : State) :
    (State.signalWakeU { s with u := { s.uBegun with port := s.u.port.goQuiet, unsent := s.u.aheadOfCredit } }).onLineU =
      s.onLineU := by
  unfold State.signalWakeU
  split
  · exact State.onLineU_of_not_up (by simp only [State.trainU, State.trained]; split <;> simp [LinkPort.goOff, LinkPort.train])
  · exact State.onLineU_of_not_up (by simp [LinkPort.goQuiet])

/-! ### The head that leaves the ingress buffer -/

/-- The place of the head is owed, the frame on the line goes on, and everything off U and the buffer stays. -/
theorem State.dropIngressHead_eq (s : State) :
    s.dropIngressHead = { s with ingress := s.ingress.tail, held := false, u := { s.uBegun with owed := s.u.owed + 1 } } :=
  rfl

/-- Where no request is held, that is headGone. -/
theorem State.dropIngressHead_eq_headGone {s : State} (h : s.held = false) : s.dropIngressHead = s.headGone := by
  cases s; simp_all [State.dropIngressHead, State.headGone, State.uBegun]

end Sys2Proof.Machine
end

