-- ==== Sys2Proof/Laws/Wire.lean ====
section
/-!
SUPPORT. What the codec of Machine/Wire.lean gives back: words, fields and bodies of frames, and what the check leaves of what was
received.
-/

namespace Sys2Proof.Machine

open Sys2Proof

/-! ### Words and fields -/

/-- The four bytes of a word give the word back. -/
theorem littleEndian_wordBytes (w : Word) : BitVec.ofNat 32 (littleEndian (wordBytes w)) = w := by
  apply BitVec.eq_of_toNat_eq
  simp only [wordBytes, littleEndian, BitVec.extractLsb'_toNat, BitVec.toNat_ofNat, Nat.shiftRight_eq_div_pow]
  have := w.isLt
  omega

/-- The two bytes of a field give the field back. -/
theorem littleEndian_halfBytes (h : BitVec 16) : BitVec.ofNat 16 (littleEndian (halfBytes h)) = h := by
  apply BitVec.eq_of_toNat_eq
  simp only [halfBytes, littleEndian, BitVec.extractLsb'_toNat, BitVec.toNat_ofNat, Nat.shiftRight_eq_div_pow]
  have := h.isLt
  omega

/-- The same, with the bytes written out, as the readers of a body meet them. -/
@[simp] theorem littleEndian_word (w : Word) :
    BitVec.ofNat 32 (littleEndian
      [w.extractLsb' 0 8, w.extractLsb' 8 8, w.extractLsb' 16 8, w.extractLsb' 24 8]) = w :=
  littleEndian_wordBytes w

@[simp] theorem littleEndian_half (h : BitVec 16) :
    BitVec.ofNat 16 (littleEndian [h.extractLsb' 0 8, h.extractLsb' 8 8]) = h :=
  littleEndian_halfBytes h

/-- The bytes of words give the words back. -/
@[simp] theorem wordsOf_bytes (data : List Word) : wordsOf (data.flatMap wordBytes) = some data := by
  induction data with
  | nil => rfl
  | cons w rest ih =>
    have : (w :: rest).flatMap wordBytes =
        w.extractLsb' 0 8 :: w.extractLsb' 8 8 :: w.extractLsb' 16 8 :: w.extractLsb' 24 8 :: rest.flatMap wordBytes := rfl
    rw [this, wordsOf, ih]
    simp

/-- Bytes that are not a whole number of words are none (R188). -/
theorem wordsOf_none (bytes : List Byte) (h : bytes.length % 4 ≠ 0) : wordsOf bytes = none := by
  induction bytes using wordsOf.induct with
  | case1 => simp at h
  | case2 a b c d rest ih =>
    rw [wordsOf, ih (by simp at h; omega)]
    rfl
  | case3 bytes _ h2 =>
    unfold wordsOf
    split
    · simp at h
    · exact absurd rfl (h2 _ _ _ _ _)
    · rfl

/-- Words take four bytes each. -/
theorem flatMap_wordBytes_length (data : List Word) : (data.flatMap wordBytes).length = 4 * data.length := by
  induction data with
  | nil => rfl
  | cons w rest ih =>
    rw [List.flatMap_cons, List.length_append, ih]
    simp [wordBytes]
    omega

/-- The header's tag field gives the tag back. -/
@[simp] theorem tag_of_header (t : UTag) : (t.setWidth 8).setWidth 6 = t := by
  apply BitVec.eq_of_toNat_eq
  simp

/-- The flags byte gives the flags back. -/
theorem flags_of_byte (f : MemberFlags) :
    (⟨(flagsByte f).getLsbD 0, (flagsByte f).getLsbD 1, (flagsByte f).getLsbD 2⟩ : MemberFlags) = f := by
  rcases f with ⟨a, b, c⟩
  cases a <;> cases b <;> cases c <;> rfl

/-! ### Bodies -/

/-- A body is read as the frame that it was laid out from (R214, R215). -/
theorem frameOf_body (f : WireFrame) : frameOf f.body = some f := by
  cases f with
  | request h a c d =>
    cases h with
    | tagged k t =>
      cases k <;>
        simp [WireFrame.body, WireFrame.code, WireFrame.tag, WireFrame.fixed, WireFrame.data, wordBytes, frameOf, requestOf]
    | post =>
      simp [WireFrame.body, WireFrame.code, WireFrame.tag, WireFrame.fixed, WireFrame.data, wordBytes, frameOf, requestOf]
  | reply t s d ws =>
    simp [WireFrame.body, WireFrame.code, WireFrame.tag, WireFrame.fixed, WireFrame.data, frameOf, replyOf]
  | descriptor c i k f h =>
    simp [WireFrame.body, WireFrame.code, WireFrame.tag, WireFrame.fixed, WireFrame.data, wordBytes, halfBytes, frameOf,
      descriptorOf]
    exact flags_of_byte f
  | assign b | release b =>
    simp [WireFrame.body, WireFrame.code, WireFrame.tag, WireFrame.fixed, WireFrame.data, wordBytes, frameOf, baseOf]
  | identify | clear | hush | empty | assigned | chainbreak | chainmend | credit | attention => rfl

/-- Where a body with its check is received, the body is all but the check, and the check is what follows it (R186). -/
theorem received_parts (body : List Byte) (c : BitVec 16) :
    (body ++ halfBytes c).take ((body ++ halfBytes c).length - 2) = body ∧
      (body ++ halfBytes c).drop ((body ++ halfBytes c).length - 2) = halfBytes c := by
  have : (body ++ halfBytes c).length - 2 = body.length := by simp [halfBytes]
  rw [this]
  simp

/-- A body of 2 to 71 bytes with its own check is a good frame (R187). -/
theorem received_good (body : List Byte) (h : 2 ≤ body.length) (h' : body.length ≤ 71) :
    Received.bad { bytes := body ++ halfBytes (crc body), ended := true } = false := by
  obtain ⟨h1, h2⟩ := received_parts body (crc body)
  unfold Received.bad Received.body
  rw [h1, h2]
  simp [halfBytes, Config.maxFrameBytes]
  omega

end Sys2Proof.Machine
end

