-- ==== Sys2Proof/Tests/Slice0.lean ====
section
/-!
SUPPORT. Tests of single steps, their expected results taken from the worked tables of the spec, and one witness for the hypotheses
of each statement.
-/

namespace Sys2Proof.Tests

open Sys2Proof Sys2Proof.Machine

/-! ### The state of the worked sequence of section 2.8 -/

/-- A port that is UP. -/
def upPort : LinkPort :=
  (LinkPort.afterPowerOn 0).goUp

/-- A member of a size exponent. -/
def aMember (k : Byte) : Member :=
  { cls := 0x0101, identity := 0xA5, sizeExp := k, flags := ⟨true, true, false⟩ }

/-- An ACTIVE branch whose CLEAR has been sent, with nothing on it. -/
def liveBranch : BranchUnit :=
  { BranchUnit.afterPowerOn 0 with state := .active, clearOwed := false, port := upPort, credit := 1 }

/-- Branch B1 of section 2.8, its position 1 grown to the end of the pool's first 5 MiB as the table gives it. -/
def branch1 : BranchUnit :=
  { liveBranch with
    records := ((Vector.replicate 8 Record.vacant).set 0 (.assigned (aMember 16) 0x400000)).set 1
      (.assigned (aMember 18) 0x440000) }

/-- A queued POST behind a window of branch B3. -/
def aPost : Slot :=
  { hdr := .post, addr := 0x1000000, count := 1, data := [7], position := 0, window := 2, ageDeadline := 1000 }

/-- Branch B3 of section 2.8: WAKING, its queue full, position 0 ASSIGNED. -/
def branch3 : BranchUnit :=
  { BranchUnit.afterPowerOn 0 with
    state := .waking 20000
    clearOwed := false
    config := { BranchConfig.default with poolBase := 0x1000000 }
    queue := List.replicate 8 aPost
    records := (Vector.replicate 8 Record.vacant).set 0 (.assigned (aMember 20) 0x1000000) }

/-- The rights a window admits, as READ, WRITE, POST, SWAP. -/
def window (offset : Word) (k : Byte) (b : Branch) (target : Word) (r w p x : Bool) : Window :=
  { valid := true, offset := offset, sizeExp := k, branch := b, target := target, rights := ⟨r, w, p, x⟩, hits := 0 }

/-- The window table of section 1.9. -/
def windows : Vector Window 32 :=
  (((Vector.replicate 32 Window.cleared).set 0 (window 0x140000 16 2 0x20000 true true false true)).set 1
    (window 0x100000 20 1 0x400000 true true true false)).set 2 (window 0x800000 23 3 0x1000000 true true true true)

/-- The READ under tag 5 that is pending on B1. -/
def carried5 : Carried :=
  { branch := 1, tag := 0, kind := .read, position := 0, count := 2 }

/-- The part of section 2.8 once it is ASSIGNED: S is 24, and the READ under tag 5 is pending. -/
def busy : State :=
  { State.reset with
    spanExp := 24
    member := some 0x25000000
    u := { port := upPort, granted := 15, owed := 1, unsent := [], sending := none }
    windows := windows
    tagReg := [5]
    reservations := 1
    entries := (Vector.replicate 32 PendingEntry.free).set 0 (.waiting carried5 5 1000)
    branches := ((Vector.replicate 4 (BranchUnit.afterPowerOn 0)).set 1 branch1).set 3 branch3 }

/-- The busy part with one frame in the ingress buffer. -/
def withFrame (hdr : ReqHeader) (addr : Word) (count : Byte) (data : List Word) : State :=
  { busy with
    u := { busy.u with owed := 0 }
    ingress := [{ hdr := hdr, addr := addr, count := count, data := data }] }

/-- The state a command answers with. -/
def after (c : Instr) (s : State) : State :=
  match exec c s with
  | .next t => t
  | .fault _ => s
  | .refused _ => s

/-- What the classifier makes of a frame: the statuses of the REPLYs it places, the tags then in the register, and the places owed. -/
def taken (hdr : ReqHeader) (addr : Word) (count : Byte) (data : List Word) : List Status × List UTag × Nat :=
  let t := after .classifierTake (withFrame hdr addr count data)
  (t.egress.filterMap fun f => match f with | .reply r => some r.status | .attention _ => none, t.tagReg, t.u.owed)

/-- The busy part with U in QUIET. -/
def quietU : State :=
  { busy with u := { busy.u with port := upPort.goQuiet } }

/-- The busy part with another branch B1. -/
def withB1 (u : BranchUnit) : State :=
  busy.setBr 1 u

/-- A DORMANT branch whose link is QUIET. -/
def asleep (latch : Bool) (relisten : Option Time) : BranchUnit :=
  { branch1 with state := .dormant, wakeLatch := latch, credit := 0
                 port := { upPort.goQuiet with relistenTimer := relisten } }

/-! ### Well-formed and ill-formed commands -/

/-- Seventeen words, one more than a good frame carries. -/
def seventeen : List Word :=
  List.replicate 17 0

theorem test_wellFormed_request : WellFormed (.requestFrame .post 0 16 (List.replicate 16 0)) = true := by decide

theorem test_illFormed_request : WellFormed (.requestFrame .post 0 16 seventeen) = false := by decide

theorem test_illFormed_reply : WellFormed (.reply 0 0 0 0 seventeen) = false := by decide

theorem test_illFormed_descriptor : WellFormed (.descriptor 0 0 0 32 ⟨false, false, false⟩ 0) = false := by decide

theorem test_wellFormed_descriptor : WellFormed (.descriptor 0 0 0 31 ⟨false, false, false⟩ 0) = true := by decide

/-- No row of the table has bits, so no word spells a command (assumption 2). -/
theorem test_noWord : decodeTableWord 8 0 = none := by decide

/-! ### The window law of R6, with its six failing examples, at S = 24 -/

theorem test_R6_k6 : (window 0x8000 6 0 0 true true true true).lawful 24 = false := by decide

theorem test_R6_k25 : (window 0x2000000 25 0 0 true true true true).lawful 24 = false := by decide

theorem test_R6_offset : (window 0x8000 16 0 0 true true true true).lawful 24 = false := by decide

theorem test_R6_target : (window 0x100000 16 0 0x418000 true true true true).lawful 24 = false := by decide

theorem test_R6_span : (window 0x1000000 23 0 0 true true true true).lawful 24 = false := by decide

theorem test_R6_block : (window 0 12 0 0 true true true true).lawful 24 = false := by decide

theorem test_R6_entry2 : (window 0x800000 23 3 0x1000000 true true true true).lawful 24 = true := by decide

/-! ### The frames of section 2.8, each taken alone -/

theorem test_2_8_frame1 : (after .classifierTake { withFrame (.tagged .read 9) 0x25150000 1 [] with member := none }).egress =
    [.reply { tag := 9, status := .noroute, detail := 0, data := [] }] := by decide

theorem test_2_8_frame2 : taken (.tagged .read 5) 0x25150000 1 [] = ([], [5], 1) := by decide

theorem test_2_8_frame3 : taken (.tagged .write 10) 0x25150002 1 [1] = ([.malformed], [5], 1) := by decide

theorem test_2_8_frame4 : taken (.tagged .read 11) 0x26000000 2 [] = ([.noroute], [5], 1) := by decide

theorem test_2_8_frame5 : taken (.tagged .read 12) 0x25000040 4 [] = ([], [5, 12], 1) := by decide

theorem test_2_8_frame6 : taken (.tagged .read 13) 0x25200000 1 [] = ([.noroute], [5], 1) := by decide

theorem test_2_8_frame7 : taken (.tagged .swap 14) 0x25180000 1 [1] = ([.denied], [5], 1) := by decide

theorem test_2_8_frame8 : taken (.tagged .read 15) 0x2514FFF8 4 [] = ([.bounds], [5], 1) := by decide

theorem test_2_8_frame9 : taken (.tagged .read 16) 0x25140100 4 [] = ([.lost], [5], 1) := by decide

theorem test_2_8_frame10 : taken (.tagged .read 17) 0x25120000 1 [] = ([.absent], [5], 1) := by decide

theorem test_2_8_frame11 : taken (.tagged .read 18) 0x25800010 16 [] = ([.busy], [5], 1) := by decide

theorem test_2_8_frame12 : taken (.tagged .write 19) 0x25150000 2 [1, 2] = ([], [5, 19], 1) := by decide

/-- The slot that frame 12 becomes: its age deadline is the take plus 100 units of 10 µs. -/
theorem test_2_8_frame12_slot :
    ((after .classifierTake (withFrame (.tagged .write 19) 0x25150000 2 [1, 2])).br 1).queue =
      [{ hdr := .tagged .write 19, addr := 0x450000, count := 2, data := [1, 2], position := 1, window := 1
         ageDeadline := 1000 }] := by decide

theorem test_2_8_frame13 :
    (after .classifierTake (withFrame .post 0x25180000 1 [1])).classifier.postDropped = 1 := by decide

/-! ### Reset, the forwarder and the tracker -/

/-- Both straps high: S is 28 (R200). -/
theorem test_straps : (after (.powerOnReset true true) busy).spanExp = 28 := by decide

/-- Section 3.7: with one credit s1 is issued under the lowest free tag and entry; entry 0 and tag 0 are taken. -/
def issuing : State :=
  busy.setBr 1 { branch1 with queue :=
    [{ hdr := .tagged .write 19, addr := 0x450000, count := 2, data := [1, 2], position := 1, window := 1
       ageDeadline := 1000 }] }

theorem test_3_7_issue : ((after (.issue 1) issuing).br 1).unsent = [.tagged .write 1 0x450000 2 [1, 2]] := by decide

theorem test_3_7_entry : (after (.issue 1) issuing).entry 1 =
    .waiting { branch := 1, tag := 1, kind := .write, position := 1, count := 2 } 19 1000 := by decide

/-- The range of the slot's position has gone: ABSENT, and the credit stays (3.7, R47). -/
theorem test_3_7_recheck :
    (after (.issue 1) (issuing.setRecord 1 1 .vacant)).egress =
      [.reply { tag := 19, status := .absent, detail := 0, data := [] }] := by decide

/-- Section 4.9: a READ of two words is answered with two words, and passed up under its own tag. -/
theorem test_4_9_reply : (after (.reply 1 0 0 0 [8, 9]) busy).egress =
    [.reply { tag := 5, status := .ok, detail := 0, data := [8, 9] }] := by decide

/-- One word too few: BADREPLY, detail 0 and no data (4.9, R66). -/
theorem test_4_9_badreply : (after (.reply 1 0 0 7 [8]) busy).egress =
    [.reply { tag := 5, status := .badreply, detail := 0, data := [] }] := by decide

/-- Section 4.10: the entry is ORPHANED for 4 ms from the running out of its reply deadline at 1 ms. -/
theorem test_4_10_timeout : (after (.replyDeadlineExpiry 0) busy).entry 0 = .orphaned carried5 5000 .timeout := by decide

/-! ### The chain controller: the placements of sections 5.9 and 5.10 -/

/-- Branch B1 of section 5.9: pool base 0x00400000, exponent 20. -/
def pool59 : BranchUnit :=
  { liveBranch with config := { BranchConfig.default with poolBase := 0x400000, poolExp := 20 } }

theorem test_5_9_position0 : pool59.placement 0 16 = some 0x400000 := by decide

/-- The same branch with the records at positions 0 to 2. -/
def filled (r0 r1 r2 : Record) : BranchUnit :=
  { pool59 with records := ((pool59.records.set 0 r0).set 1 r1).set 2 r2 }

theorem test_5_9_position1 :
    (filled (.assigned (aMember 16) 0x400000) .vacant .vacant).placement 1 18 = some 0x440000 := by decide

theorem test_5_9_position2 :
    (filled (.assigned (aMember 16) 0x400000) (.assigned (aMember 18) 0x440000) .vacant).placement 2 12 =
      some 0x410000 := by decide

theorem test_5_10_replacement :
    (filled (.assigned (aMember 16) 0x400000) (.lost (aMember 18) (some 0x440000))
      (.lost (aMember 12) (some 0x410000))).placement 1 16 = some 0x420000 := by decide

/-! ### Notices and management -/

/-- Section 7.10: the first ATTENTION from B1, position 0 is presented as source 9, and the timer runs out 50 ms later. -/
theorem test_7_10_joined : (after (.attention 1 0x10 0) busy).egress = [.attention 9] := by decide

theorem test_7_10_timer : (after (.attention 1 0x10 0) busy).rePresentTimer = some 50000 := by decide

/-- A second one merges, and the notice keeps the first code. -/
theorem test_7_10_merged : (after (.attention 1 0x11 0) (after (.attention 1 0x10 0) busy)).notices =
    [{ body := .attachment 1 0 0x10, merges := 1, presentations := 1 }] := by decide

/-- The busy part with one request in the management unit's input queue. -/
def managed (hdr : ReqHeader) (offset : Nat) (data : List Word) : State :=
  { busy with
    tagReg := hdrTags hdr ++ busy.tagReg
    reservations := busy.reservations + (hdrTags hdr).length
    mgmtQueue := [{ hdr := hdr, offset := offset, count := data.length, data := data }] }

/-- Section 10.10: DORMANT to B1 with an entry waiting, in a write that sets the limit to 4 and the timeout to 200 first. -/
theorem test_10_10_f2 :
    let t := after .dormant (managed (.tagged .write 4) 0x078 [0, 0x00010418, 0x002800C8, 0x00000004])
    ((t.br 1).state, (t.br 1).config.limit, (t.br 1).config.replyTimeout, t.mgmt.commands) =
      (.draining, 4, 200, 1) := by decide

/-- The words that f3 reads: the state of a DRAINING B1, and its entry count and credit. -/
theorem test_10_10_f3 :
    let u : BranchUnit := { branch1 with state := .draining, outcome := .done, credit := 4 }
    ((busy.setBr 1 u).readWord 0x070, (busy.setBr 1 u).readWord 0x074) = (0x00020102, 0x04010000) := by decide

/-- A write of two words of the configuration record is PARTIAL. -/
theorem test_10_10_f1 : (after .configurationWrite (managed (.tagged .write 3) 0x07C [0, 0])).mgmt.partialWrite = 1 := by
  decide

/-- A POST of NOTICE-ACK with source 40: dropped, and counted under both counters. -/
theorem test_10_10_post :
    let t := after .noticeAck (managed .post 0x018 [0x281])
    (t.mgmt.badentry, t.mgmt.postDropped) = (1, 1) := by decide

theorem test_10_10_swap : (after .managementSwap (managed (.tagged .swap 7) 0x014 [1])).mgmt.denied = 1 := by decide

theorem test_10_10_readonly :
    (after .rePresentIntervalWrite (managed (.tagged .write 8) 0x010 [0, 9])).mgmt.readonly = 1 := by decide

/-! ### Links and branches: section 9.9, and what follows a link that reaches UP -/

theorem test_9_9_bad : ((after (.badFrame (.branch 1)) busy).br 1).port.badRun = 1 := by decide

theorem test_9_9_credit :
    let t := after (.credit 1 2) (after (.badFrame (.branch 1)) busy)
    ((t.br 1).port.badRun, (t.br 1).credit) = (0, 3) := by decide

theorem test_9_9_invalid :
    let t := after (.credit 1 0) (after (.badFrame (.branch 1)) busy)
    ((t.br 1).port.badRun, (t.br 1).credit, (t.br 1).port.counters.discarded) = (0, 1, 1) := by decide

theorem test_9_9_up :
    let t := after (.linkEntersUp (.branch 0)) busy
    ((t.br 0).state, (t.br 0).unsent) = (.active, [.clear]) := by decide

theorem test_9_9_clear :
    let t := after (.branchClearSent 0) (after (.linkEntersUp (.branch 0)) busy)
    ((t.br 0).clearOwed, (t.br 0).unsent) = (false, [.identify]) := by decide

/-- The check of R186 over the nine digits: the catalogue value of this polynomial from all ones, bits and bytes least
significant first (assumption 22). -/
theorem test_crc : crc [0x31, 0x32, 0x33, 0x34, 0x35, 0x36, 0x37, 0x38, 0x39] = 0x6F91 := by
  simp [crc, crcByte, crcShift]

/-- The bytes of an ASSIGN with base 0x25000000 and of a READ under tag 9, by the tables of R214 and R215. -/
theorem test_R214_body :
    (WireFrame.assign 0x25000000).body = [0x13, 0, 0, 0, 0, 0x25] ∧
      (WireFrame.request (.tagged .read 9) 0x25150004 2 []).body = [0x01, 9, 0x04, 0x00, 0x15, 0x25, 2] := by decide

/-- The longest frame has 73 bytes with its check, and a byte more is bad, whatever it holds (R187, R214). -/
theorem test_R187_longest :
    (WireFrame.request .post 0 16 (List.replicate 16 7)).body.length + 2 = 73 ∧
      Received.command .u { bytes := List.replicate 74 0, ended := true } = .badFrame .u := by decide

/-- A HUSH as it stands on the line is received as HUSH, and with a byte too many as a frame of no use (R186, R188). -/
theorem test_R186_hush :
    Received.command .u { bytes := (WireFrame.hush).bytes, ended := true } = .uHush ∧
      Received.command .u { bytes := [0x17, 0, 0] ++ halfBytes (crc [0x17, 0, 0]), ended := true } =
        .unknownFrameDiscarded .u := by decide +kernel

/-- The DESCRIPTOR that the part sends, byte by byte: class 0x0C24, its identity, S, the three flags and hop count 0 (R166). -/
theorem test_R166_descriptor :
    (MemberFrame.descriptor { busy with identity := 0x01020304 }.descriptor).wire.body =
      [0x11, 0, 0x24, 0x0C, 0x04, 0x03, 0x02, 0x01, 24, 7, 0] := by decide

/-- On U the CREDIT leaves ahead of an egress frame that waits, and a member frame handed before the CREDIT fell due ahead of
it (R20, R167, R170). -/
theorem test_R191_order :
    let s : State := { busy with egress := [.attention 0] }
    let m : State := { s with u := { s.u with unsent := [{ frame := .empty 0, afterCredit := false }] } }
    (after .egressFrameSent s = s ∧ s.nextFrame .u = some (.credit 1)) ∧
      after .uCreditSent m = m ∧ m.nextFrame .u = some (.empty 0) := by decide

/-- An egress frame begun before a place fell free is sent to its end, ahead of the CREDIT then due (R191). -/
theorem test_R191_begun :
    let s : State := after .classifierTake { withFrame (.tagged .read 9) 0x25140100 4 [] with egress := [.attention 0] }
    (after .egressFrameSent s).egress = [.reply { tag := 9, status := .lost, detail := 0, data := [] }] ∧
      after .uCreditSent s = s ∧ s.nextFrame .u = some (.attention 0 0) := by decide

/-- An egress frame being sent at a HUSH wakes U and is sent to its end; a CREDIT being sent there is granted, and U stays
QUIET (R180, R194). -/
theorem test_R194_hush :
    let s : State := after .uHush { busy with egress := [.attention 0], u := { busy.u with granted := 16, owed := 0 } }
    let c : State := after .uHush busy
    (s.u.port.link = .training ∧ s.egress ≠ [] ∧ (after .egressFrameSent s).egress = []) ∧
      c.u.port.link = .quiet ∧ (after .uCreditSent c).u.granted = 16 := by decide

/-- A member frame carried over a quiet period leaves first on the new link, ahead of the CREDIT and of an egress frame that was
being sent at the HUSH (R170, R178). -/
theorem test_R170_new_link :
    let s : State := { busy with egress := [.attention 0], u := { busy.u with granted := 16, owed := 0 } }
    let n : State := after (.linkEntersUp .u) (after (.wakeTaken .u) (after .uHush (after .uIdentify s)))
    let m : State := after .uMemberFrameSent n
    n.nextFrame .u = some (.empty 0) ∧ m.nextFrame .u = some (.credit 16) ∧
      (after .uCreditSent m).nextFrame .u = some (.attention 0 0) := by decide

/-- Credit owed while a CREDIT is being sent is carried by the next (R20). -/
theorem test_R20_next_credit :
    let f := withFrame (.tagged .read 9) 0x25140100 4 []
    let s : State := after .uCreditSent (after .classifierTake { f with u := { f.u with granted := 14, owed := 1 } })
    s.u.granted = 15 ∧ s.u.owed = 1 ∧ s.nextFrame .u = some (.credit 1) := by decide

/-- B1 on a link that has come UP again after a link reset: what was on its way meets a part that holds nothing (R174). -/
def retrained : State :=
  after (.linkEntersUp (.branch 1)) (after .uClear busy)

theorem test_R174_reply : (after (.reply 1 0 0 0 [8, 9]) retrained).tracker.stray = 1 := by decide

theorem test_R174_enumeration :
    ((after (.descriptor 1 0 0 16 ⟨false, false, false⟩ 0) retrained).br 1).chain.unexpected = 1 := by decide

theorem test_R174_attention : (after (.attention 1 0x10 0) retrained).noticeUnit.discarded = 1 := by decide

/-- A second BRANCH-RESET hands a second CLEAR; one that finds the link's own CLEAR waiting hands none (R141). -/
theorem test_R141_clears :
    (((busy.resetBranchState 1).resetBranchState 1).br 1).unsent = [.resetClear, .resetClear] ∧
      ((retrained.resetBranchState 1).br 1).unsent = [.clear] := by decide

/-- With no command waiting, the clock runs up to the earliest timer, and then that timer runs out (assumption 1). -/
theorem test_idle :
    (step { State.reset with now := 1999 } = .next { State.reset with now := 2000 }) ∧
      step { State.reset with now := 2000 } =
        .next (after (.trainingAttemptTimeout (.branch 0)) { State.reset with now := 2000 }) := ⟨rfl, rfl⟩

/-- While the re-listen timer runs, a port in QUIET takes neither a REPLY nor a bad frame (R196). -/
theorem test_R196_deaf :
    let s := withB1 (asleep true (some 900))
    after (.reply 1 0 0 0 [8, 9]) s = s ∧ after (.badFrame (.branch 1)) s = s := by decide

/-- A bad frame on U is counted by the port of U and no other. -/
theorem test_bad_u : (after (.badFrame .u) busy).u.port.counters.badFrames = 1 := by decide

/-! ## Witnesses

For each statement with hypotheses, a state and operands that meet them together; a statement of several clauses has a witness of
each. -/

/-- A DORMANT branch whose HUSH has not been sent. -/
def hushing : BranchUnit :=
  { branch1 with state := .dormant, unsent := [.hush] }

/-- A branch with an enumeration in a phase, its identify timer running out at 700. -/
def running (phase : EnumPhase) : BranchUnit :=
  { branch1 with enumeration := .running phase 700 }

/-- A slot of branch B1, as it stands for a READ of one word. -/
def aSlot : Slot :=
  { hdr := .tagged .read 9, addr := 0x400000, count := 1, data := [], position := 0, window := 1, ageDeadline := 300 }

/-- B1 with slots in its queue. -/
def queued (qs : List Slot) : BranchUnit :=
  { branch1 with queue := qs }

/-- An attachment notice of position 0 of B1. -/
def aNotice : Notice :=
  { body := .attachment 1 0 0x10, merges := 14, presentations := 254 }

/-- A self notice. -/
def selfNotice : Notice :=
  { body := .self (Cause.link 1).toSet, merges := 0, presentations := 1 }

/-- Reset with the first training attempts just run out, and its earliest timer. -/
theorem witness_StepTakesFrontCommand :
    let s : State := { State.reset with now := 2000 }
    State.reset.pending = [] ∧ (∀ x ∈ State.reset.timers, State.reset.now < x.1) ∧
      s.timers = [] ++ (2000, .trainingAttemptTimeout (.branch 0)) :: s.timers.tail ∧ (2000 ≤ s.now) ∧
      ∀ x ∈ s.timers.tail, 2000 ≤ x.1 := by decide

theorem witness_EveryCommandAnswersAndLeavesTheFixedThings :
    ∀ span1 span0, Instr.uClear ≠ .powerOnReset span1 span0 := by decide

theorem witness_ClearFromParentIsLinkReset : busy.u.port.link = .up := rfl

theorem witness_UpstreamLinkLossIsLinkReset :
    let s : State := { busy with u := { busy.u with port := { upPort with badRun := 2 } } }
    s.u.port.link = .up ∧ s.resetPin = false ∧ s.u.port.badRun = 2 := ⟨rfl, rfl, rfl⟩

theorem witness_RequestFrameJoinsOrOverruns :
    let s : State := { busy with u := { busy.u with granted := 0 } }
    (busy.u.port.link = .up ∧ busy.u.granted ≠ 0) ∧ (s.u.port.link = .up ∧ s.u.granted = 0) ∧
      (List.replicate 16 (0 : Word)).length ≤ 16 ∧ 16 < seventeen.length := by decide

/-- The busy part with a member frame handed to U, before the CREDIT that is due or behind it. -/
def handed (afterCredit : Bool) : State :=
  { busy with egress := [.attention 0], u := { busy.u with unsent := [{ frame := .empty 0, afterCredit := afterCredit }] } }

theorem witness_WhatPassesOnU :
    let idle : State := { busy with u := { busy.u with granted := 16, owed := 0 } }
    let waiting : State := { idle with egress := [.attention 0] }
    let begun := fun f : USending => ({ handed true with u := { (handed true).u with sending := some f } } : State)
    (busy.u.port.link = .up ∧ busy.u.sending = none ∧ 0 < busy.u.owed ∧ busy.u.unsent = []) ∧
      ((handed true).u.unsent = { frame := .empty 0, afterCredit := true } :: [] ∧ (handed true).u.sending = none ∧
        0 < (handed true).u.owed) ∧
      ((handed false).u.port.link = .up ∧ (handed false).u.sending = none ∧
        (handed false).u.unsent = { frame := .empty 0, afterCredit := false } :: []) ∧
      ((begun (.credit 1)).u.sending = some (.credit 1) ∧ (begun (.credit 1)).CreditLaw) ∧
      ((begun .member).u.sending = some .member ∧ (begun .member).CreditLaw) ∧
      ((begun .egress).egress = .attention 0 :: [] ∧ (begun .egress).u.sending = some .egress ∧ (begun .egress).CreditLaw) ∧
      (waiting.u.port.link = .up ∧ waiting.egress = .attention 0 :: [] ∧ waiting.u.sending = none ∧ waiting.u.owed = 0 ∧
        waiting.u.unsent = []) ∧
      (idle.u.sending = none ∧ idle.u.owed = 0 ∧ idle.u.unsent = [] ∧ idle.egress = []) ∧
      (quietU.u.port.link ≠ .up ∧ quietU.u.sending = none) ∧
      [Status.ok, .fault][1]? = some .fault := by decide

theorem witness_MemberFramesOfTheParent :
    let s : State := { busy with member := none, presentationOwed := true }
    let h := withFrame (.tagged .read 9) 0x25000000 1 []
    (s.u.port.link = .up ∧ s.member = none ∧ (0xFF000000 : Word).toNat % 2 ^ s.spanExp = 0) ∧
      (s.u.port.link = .up ∧ (0x00800000 : Word).toNat % 2 ^ s.spanExp ≠ 0) ∧ busy.member ≠ none ∧
      (busy.member = some 0x25000000 ∧ busy.held = false) ∧
      ({ h with held := true } : State).ingress = { hdr := .tagged .read 9, addr := 0x25000000, count := 1, data := [] } :: [] ∧
      busy.member ≠ some 0 := by decide

theorem witness_HushFromParentQuietsU :
    let s : State := { busy with egress := [.attention 0] }
    let idle : State := { s with u := { s.u with granted := 16, owed := 0 } }
    (busy.u.port.link = .up ∧ busy.resetPin = false ∧ busy.egress = [] ∧ busy.uBegun.sending = some (.credit 1)) ∧
      (s.u.port.link = .up ∧ s.resetPin = false ∧ s.egress ≠ []) ∧
      ((handed false).u.port.link = .up ∧ (handed false).uBegun.sending = some .member ∧
        (handed false).u.unsent = { frame := .empty 0, afterCredit := false } :: []) ∧
      (idle.u.port.link = .up ∧ idle.uBegun.sending = some .egress ∧ idle.egress = .attention 0 :: []) ∧
      exec .uHush idle = .next (after .uHush idle) :=
  ⟨by decide, by decide, by decide, by decide, rfl⟩

theorem witness_DiscardedFramesAreCounted :
    (busy.u.port.link = .up ∧ (busy.br 1).port.link = .up) ∧
      (WireFrame.request .post 0 16 (List.replicate 16 0)).data.length ≤ 16 ∧
      ((0x06 : Byte).toNat ∉ [0x01, 0x02, 0x03, 0x04, 0x05] ∧ (List.replicate 69 (0 : Byte)).length ≤ 69) ∧
      ((0x05 : Byte).toNat = 0x05 ∧ ([0, 0, 0] : List Byte).length ≠ 2 ∧ (3 - 2) % 4 ≠ 0) ∧
      (0x01 : Byte).toNat ∈ [0x01, 0x02, 0x03, 0x04] ∧ ([0, 0, 0, 0] : List Byte).length < 5 := by decide

theorem witness_BadFramesCountAndThreeLeaveUp :
    let at1 := withB1 { branch1 with port := { upPort with badRun := 1 } }
    let at2 := withB1 { branch1 with port := { upPort with badRun := 2 } }
    ((at1.portOf (.branch 1)).link = .up ∧ at1.hushWindow (.branch 1) = false ∧ (at1.portOf (.branch 1)).badRun + 1 < 3) ∧
      ((at2.portOf (.branch 1)).link = .up ∧ at2.hushWindow (.branch 1) = false ∧
        3 ≤ (at2.portOf (.branch 1)).badRun + 1) ∧
      ((withB1 hushing).portOf (.branch 1)).link = .up ∧ (withB1 hushing).hushWindow (.branch 1) = true ∧
      ((quietU.portOf .u).link = .quiet ∧ (quietU.portOf .u).relistenTimer = none) ∧
      (busy.portOf (.branch 0)).link = .training ∧ ((after .resetAsserted busy).portOf .u).link = .off ∧
      (((withB1 (asleep true (some 900))).portOf (.branch 1)).link = .quiet ∧
        ((withB1 (asleep true (some 900))).portOf (.branch 1)).relistenTimer ≠ none) := by decide

/-- Bytes that are bad by each of the four tests of R187, the third 74 bytes long. -/
theorem witness_badBytes :
    ((⟨[], false⟩ : Received).ended = false ∧ ([0x10, 0, 0xFF] : List Byte).length < 4) ∧
      73 < (List.replicate 74 (0 : Byte)).length ∧
      ([0x16, 0, 0, 0] : List Byte) = [0x16, 0] ++ [0, 0] ∧ (0 : Byte).toNat + 256 * (0 : Byte).toNat ≠ (crc [0x16, 0]).toNat := by
  decide +kernel

theorem witness_BranchLinkLossEndsTheBranchsWork :
    let s := withB1 { queued [aSlot] with state := .draining }
    (busy.resetPin = false ∧ (busy.br 1).port.link = .up ∧ (busy.br 1).hushWaits = false ∧ (busy.br 1).state = .active) ∧
      s.resetPin = false ∧ (s.br 1).port.link = .up ∧ (s.br 1).hushWaits = false ∧ (s.br 1).state = .draining := by decide

theorem witness_TrainingIsRepeatedUntilUp :
    ((busy.portOf (.branch 0)).link = .training ∧ (busy.portOf (.branch 0)).attemptTimer = some 2000 ∧
        busy.reaches 2000 = false) ∧
      (State.reset.u.port.link = .training ∧ State.reset.u.port.attemptTimer = some 2000 ∧ State.reset.reaches 2000 = true) ∧
      ((busy.br 0).port.link = .training ∧ (busy.br 0).state = .down) ∧
      (busy.br 3).port.link = .training ∧ (busy.br 3).state = .waking 20000 := by decide

theorem witness_WakeIsHonouredOrRefused :
    (quietU.resetPin = false ∧ quietU.u.port.link = .quiet ∧ quietU.u.port.relistenTimer = none) ∧
      (∀ latch : Bool, ((withB1 (asleep latch none)).br 1).port.link = .quiet ∧
        ((withB1 (asleep latch none)).br 1).port.relistenTimer = none ∧
        ((withB1 (asleep latch none)).br 1).wakeLatch = latch) ∧
      (((withB1 (asleep true (some 900))).br 1).port.relistenTimer = some 900 ∧
        (withB1 (asleep true (some 900))).reaches 900 = true) ∧
      ((withB1 (asleep true (some 1900))).br 1).port.relistenTimer = some 1900 ∧
        (withB1 (asleep true (some 1900))).reaches 1900 = false := by decide

theorem witness_CreditIsAddedUpTo255 :
    let low := withB1 { branch1 with credit := 239 }
    let high := withB1 { branch1 with credit := 240 }
    (busy.br 0).port.link ≠ .up ∧ ((low.br 1).port.link = .up ∧ (low.br 1).credit + (16 : Byte).toNat ≤ 255) ∧
      ((high.br 1).port.link = .up ∧ 255 < (high.br 1).credit + (16 : Byte).toNat) ∧
      (1 ≤ (1 : Byte).toNat ∧ (0 : Byte).toNat = 0 ∧ 16 < (17 : Byte).toNat) := by decide

theorem witness_BranchFramesLeaveInOrder :
    let s := fun f => withB1 { branch1 with unsent := [f] }
    let asked := withB1 { hushing with state := .waking 20000 }
    (((s .identify).br 1).unsent = .identify :: [] ∧ ((s .identify).br 1).port.link = .up ∧
        BranchFrame.identify ≠ .hush ∧ BranchFrame.identify ≠ .clear ∧ BranchFrame.identify ≠ .resetClear) ∧
      ((s .clear).br 1).unsent = .clear :: [] ∧ ((s .resetClear).br 1).unsent = .resetClear :: [] ∧
      (s .clear).resetPin = false ∧
      (((withB1 hushing).br 1).unsent = .hush :: [] ∧ ((withB1 hushing).br 1).state = .dormant) ∧
      (asked.br 1).unsent = .hush :: [] ∧ (asked.br 1).state = .waking 20000 ∧ (asked.br 1).port.link = .up := by decide

theorem witness_ClearSentMayStartEnumeration :
    let s := withB1 { branch1 with unsent := [.clear] }
    let r := withB1 { running .identify with clearOwed := true, unsent := [.resetClear, .resetClear] }
    ((s.br 1).port.link = .up ∧ (s.br 1).unsent = .clear :: [] ∧ (s.br 1).config.autoEnumerate = true ∧
        (s.br 1).enumeration = .idle) ∧
      (r.br 1).port.link = .up ∧ (r.br 1).unsent = .resetClear :: [.resetClear] ∧ (r.br 1).enumeration ≠ .idle ∧
      ((r.br 1).clearOwed && [BranchFrame.resetClear].contains .resetClear) = true := by decide

theorem witness_DrainCompletesWhenNothingWaits :
    let s : State := { withB1 { branch1 with state := .draining } with
      entries := busy.entries.set 0 (.orphaned carried5 4000 .timeout) }
    ((s.br 1).state = .draining ∧ (s.br 1).queue = [] ∧ s.hasWaiting 1 = false ∧ (s.br 1).port.link = .up) ∧
      (busy.br 1).state ≠ .draining ∧ busy.hasWaiting 1 = true ∧ (busy.br 3).queue ≠ [] := by decide

/-- The busy part with no request queued or pending, so that every timer may run out. -/
def calm : State :=
  { busy with
    tagReg := []
    reservations := 0
    entries := Vector.replicate 32 PendingEntry.free
    branches := busy.branches.set 3 { branch3 with queue := [] } }

theorem witness_WakeTimeoutFailsTheBranch :
    ((busy.br 3).state = .waking 20000 ∧ busy.reaches 20000 = false) ∧ (calm.br 3).state = .waking 20000 ∧
      calm.reaches 20000 = true := by decide

theorem witness_HeadWaitsOrClashes :
    let s := withFrame (.tagged .read 5) 0x25150000 1 []
    let full : State := { s with reservations := 64 }
    (busy.ingress = [] ∧ full.ingress = { hdr := .tagged .read 5, addr := 0x25150000, count := 1, data := [] } :: [] ∧
        64 ≤ full.reservations + full.replyFrames) ∧
      ({ s with held := true } : State).held = true ∧
      s.held = false ∧ (5 : UTag) ∈ s.tagReg ∧ s.reservations + s.replyFrames < 64 := by decide

/-- A request for words of the busy part's span. -/
def request (hdr : ReqHeader) (addr : Word) (count : Byte) (data : List Word) : Request :=
  { hdr := hdr, addr := addr, count := count, data := data }

/-- The busy part with one request in its ingress buffer, and one of the 64 reply slots left. -/
def offered (r : Request) : State :=
  { busy with ingress := [r], u := { busy.u with owed := 0 }, reservations := 63 }

/-- It may be taken, unless it bears the tag of the READ that is pending. -/
theorem mayTake_offered (r : Request) (h : ∀ t ∈ hdrTags r.hdr, t ∉ [(5 : UTag)]) : (offered r).mayTake r :=
  ⟨rfl, rfl, fun _ => (by decide : 63 + 0 < 64), h⟩

/-- A well-formed READ, WRITE or POST starts in the span. -/
theorem startsAt_of (s : State) (r : Request) (off : Nat) (hs : s.member = some 0x25000000 ∧ s.spanExp = 24)
    (hr : 1 ≤ r.count.toNat ∧ r.count.toNat ≤ 16 ∧ r.addr.toNat % 4 = 0 ∧ isSwap r.hdr = false ∧
      r.data.length = requiredWords r.hdr r.count.toNat)
    (ha : r.addr.toNat = 0x25000000 + off ∧ off < 2 ^ 24) : s.startsAt r off := by
  refine ⟨?_, 0x25000000, hs.1, ?_, ?_, ?_⟩
  · rintro (h | h | h | h | h)
    · omega
    · omega
    · exact h hr.2.2.1
    · rw [hr.2.2.2.1] at h; exact absurd h.1 (by decide)
    · exact h hr.2.2.2.2
  · show 0x25000000 ≤ _; omega
  · show _ < 0x25000000 + _; rw [hs.2]; omega
  · show off = _ - 0x25000000; omega

/-- The heads that the checks up to the window lookup refuse: the shortest count, the first address past the span, the last word
of the block and one more, and the first span offset past the block. -/
theorem witness_HeadRefusedBeforeAnyWindow :
    let none' := request .post 0x25000000 0 []
    let past := request .post 0x26000000 1 [7]
    let atEnd := request .post 0x25000FFC 2 [1, 2]
    let clear := request (.tagged .read 9) 0x25001000 1 []
    ((offered none').mayTake none' ∧ none'.isMalformed) ∧
      ((offered past).mayTake past ∧ ¬past.isMalformed ∧
        0x25000000 + 2 ^ (offered past).spanExp ≤ past.addr.toNat) ∧
      ((offered atEnd).mayTake atEnd ∧ (offered atEnd).startsAt atEnd 0xFFC ∧ 4096 ≤ 0xFFC + 4 * atEnd.count.toNat - 1) ∧
      ((offered clear).mayTake clear ∧ (offered clear).startsAt clear 0x1000 ∧
        ∀ i : WindowIx, ((offered clear).windows[i]).contains 0x1000 = false) := by
  refine ⟨⟨mayTake_offered _ (by decide), Or.inl rfl⟩, ⟨mayTake_offered _ (by decide), ?_, by decide⟩,
    ⟨mayTake_offered _ (by decide), startsAt_of _ _ _ ⟨rfl, rfl⟩ (by decide) (by decide), by decide⟩,
    mayTake_offered _ (by decide), startsAt_of _ _ _ ⟨rfl, rfl⟩ (by decide) (by decide), by decide⟩
  rintro (h | h | h | h | h) <;> revert h <;> decide

/-- The heads that the checks at a window refuse, each at the last or the first offset that the check turns away. -/
theorem witness_HeadRefusedAtItsWindow :
    let denied := request .post 0x25140000 1 [7]
    let bounds := request (.tagged .read 9) 0x2514FFFC 2 []
    let down := request (.tagged .read 9) 0x2514FFFC 1 []
    let absent := request (.tagged .read 9) 0x25110000 1 []
    let busyQ := request (.tagged .read 9) 0x25800010 16 []
    ((offered denied).mayTake denied ∧ (offered denied).startsAt denied 0x140000 ∧
        (offered denied).isMatch 0x140000 0 ∧ ((offered denied).windows[0]).rights.admits denied.hdr = false) ∧
      ((offered bounds).mayTake bounds ∧ (offered bounds).startsAt bounds 0x14FFFC ∧
        (offered bounds).isMatch 0x14FFFC 0 ∧ ((offered bounds).windows[0]).rights.admits bounds.hdr = true ∧
        ((offered bounds).windows[0]).offset.toNat + 2 ^ ((offered bounds).windows[0]).sizeExp.toNat ≤
          0x14FFFC + 4 * bounds.count.toNat - 1) ∧
      ((offered down).mayTake down ∧ (offered down).fitsWindow down 0x14FFFC 0 ∧ ((offered down).br 2).state = .down) ∧
      ((offered absent).mayTake absent ∧ (offered absent).fitsWindow absent 0x110000 1 ∧
        ((offered absent).br 1).state = .active ∧
        ∀ p : Position, (((offered absent).br 1).records[p]).admits ((offered absent).translated 0x110000 1) 1 = false) ∧
      ((offered busyQ).mayTake busyQ ∧ (offered busyQ).fitsWindow busyQ 0x800010 2 ∧
        (((offered busyQ).br 3).records[(0 : Position)]).admits ((offered busyQ).translated 0x800010 2) 16 = true ∧
        8 ≤ ((offered busyQ).br 3).queue.length) := by
  refine ⟨⟨mayTake_offered _ (by decide), startsAt_of _ _ _ ⟨rfl, rfl⟩ (by decide) (by decide), ⟨by decide, by decide⟩,
      by decide⟩,
    ⟨mayTake_offered _ (by decide), startsAt_of _ _ _ ⟨rfl, rfl⟩ (by decide) (by decide), ⟨by decide, by decide⟩,
      by decide, by decide⟩,
    ⟨mayTake_offered _ (by decide), ⟨startsAt_of _ _ _ ⟨rfl, rfl⟩ (by decide) (by decide), by decide,
      ⟨by decide, by decide⟩, by decide, by decide⟩, by decide⟩,
    ⟨mayTake_offered _ (by decide), ⟨startsAt_of _ _ _ ⟨rfl, rfl⟩ (by decide) (by decide), by decide,
      ⟨by decide, by decide⟩, by decide, by decide⟩, by decide, by decide⟩,
    mayTake_offered _ (by decide), ⟨startsAt_of _ _ _ ⟨rfl, rfl⟩ (by decide) (by decide), by decide,
      ⟨by decide, by decide⟩, by decide, by decide⟩, by decide, by decide⟩

/-- The last word of the block, with the input queue empty and with it full. -/
theorem witness_ManagementRequestJoinsOrIsHeld :
    let r := request .post 0x25000FFC 1 [7]
    let full : State := { offered r with
      mgmtQueue := List.replicate 2 { hdr := .post, offset := 0, count := 1, data := [7] } }
    ((offered r).mayTake r ∧ (offered r).startsAt r 0xFFC ∧ 0xFFC + 4 * r.count.toNat ≤ 4096 ∧
        (offered r).mgmtQueue.length < 2) ∧
      full.mayTake r ∧ full.startsAt r 0xFFC ∧ 2 ≤ full.mgmtQueue.length :=
  ⟨⟨mayTake_offered _ (by decide), startsAt_of _ _ _ ⟨rfl, rfl⟩ (by decide) (by decide), by decide, by decide⟩,
    ⟨rfl, rfl, fun h => absurd rfl h, by decide⟩, startsAt_of _ _ _ ⟨rfl, rfl⟩ (by decide) (by decide), by decide⟩

/-- The last word of the range at position 0 of B1. -/
theorem witness_HeadJoinsForwardQueue :
    let r := request .post 0x2510FFFC 1 [7]
    let s := offered r
    s.mayTake r ∧ s.fitsWindow r 0x10FFFC 1 ∧ s.resetPin = false ∧ (s.br 1).state ≠ .down ∧ (s.br 1).state ≠ .failed ∧
      (s.br 1).queue.length < 8 ∧ ((s.br 1).records[(0 : Position)]).admits (s.translated 0x10FFFC 1) 1 = true ∧
      ∀ q : Position, q < 0 → ((s.br 1).records[q]).admits (s.translated 0x10FFFC 1) 1 = false :=
  ⟨mayTake_offered _ (by decide), ⟨startsAt_of _ _ _ ⟨rfl, rfl⟩ (by decide) (by decide), by decide,
    ⟨by decide, by decide⟩, by decide, by decide⟩, rfl, by decide, by decide, by decide, by decide, by decide⟩

theorem witness_TranslationStaysBehindTheWindow :
    busy.WindowLaw ∧ busy.fitsWindow (request (.tagged .read 9) 0x2514FFF0 4 []) 0x14FFF0 0 :=
  ⟨by decide, startsAt_of _ _ _ ⟨rfl, rfl⟩ (by decide) (by decide), by decide, ⟨by decide, by decide⟩, by decide,
    by decide⟩

theorem witness_HeadOfForwardQueueWaits :
    (busy.br 0).queue = [] ∧ (busy.br 3).queue = aPost :: List.replicate 7 aPost ∧ ¬busy.issuable 3 aPost :=
  ⟨by decide, by decide, fun h => absurd h.2.1 (by decide)⟩

theorem witness_TaggedHeadIsIssued :
    let s := withB1 (queued [aSlot])
    (s.br 1).queue = aSlot :: [] ∧ s.issuable 1 aSlot ∧ s.isLowestFreeTag 1 1 ∧ s.isLowestFreeEntry 1 ∧
      ((s.br 1).records[aSlot.position]).admits aSlot.addr.toNat aSlot.count = true := by
  refine ⟨by decide, ⟨Or.inl (by decide), by decide, by decide, by decide, fun _ => ⟨by decide, ⟨1, by decide⟩, 1, by decide⟩⟩,
    ⟨by decide, by decide⟩, ⟨by decide, by decide⟩, by decide⟩

theorem witness_PostIsIssuedAndRecheckRefuses :
    let q : Slot := { aSlot with hdr := .post, data := [7] }
    let s := withB1 (queued [q])
    let lost := withB1 { queued [aSlot] with records := Vector.replicate 8 Record.vacant }
    ((s.br 1).queue = q :: [] ∧ s.issuable 1 q ∧ ((s.br 1).records[q.position]).admits q.addr.toNat q.count = true) ∧
      (lost.br 1).queue = aSlot :: [] ∧ lost.issuable 1 aSlot ∧
        ((lost.br 1).records[aSlot.position]).admits aSlot.addr.toNat aSlot.count = false := by
  refine ⟨⟨by decide, ⟨Or.inl (by decide), by decide, by decide, by decide, fun h => absurd rfl h⟩, by decide⟩, by decide,
    ⟨Or.inl (by decide), by decide, by decide, by decide, fun _ => ⟨by decide, ⟨1, by decide⟩, 1, by decide⟩⟩, by decide⟩

theorem witness_AgedSlotsAreAnsweredTimeout :
    let s := withB1 (queued [aSlot, { aSlot with hdr := .post, ageDeadline := 299 }])
    let late := withB1 (queued [{ aSlot with ageDeadline := 2000 }])
    ((∃ q ∈ (s.br 1).queue, q.ageDeadline = 299) ∧ (∀ q ∈ (s.br 1).queue, 299 ≤ q.ageDeadline) ∧ s.reaches 299 = true) ∧
      (∃ q ∈ (late.br 1).queue, q.ageDeadline = 2000) ∧ (∀ q ∈ (late.br 1).queue, 2000 ≤ q.ageDeadline) ∧
      late.reaches 2000 = false ∧ s.u.port.link ≠ .quiet ∧
      ({ s with u := quietU.u } : State).u.port.link = .quiet ∧ ([aSlot].flatMap fun q => hdrTags q.hdr) ≠ [] := by decide

theorem witness_ReplyIsMatchedLateOrStray :
    let s : State := { busy with entries := busy.entries.set 1 (.orphaned { carried5 with tag := 15 } 4000 .timeout) }
    (s.br 1).takesFrames = true ∧ s.BranchTagLaw ∧
      (s.entry 0 = .waiting carried5 5 1000 ∧ carried5.branch = 1 ∧ carried5.tag.toNat = (0 : UTag).toNat ∧
        Status.ok.code = (0 : Byte).toNat ∧ ∀ st : Status, st.code ≠ (16 : Byte).toNat) ∧
      (s.entry 1 = .orphaned { carried5 with tag := 15 } 4000 .timeout ∧ (15 : BTag).toNat = (15 : UTag).toNat) ∧
      (∀ t ∈ s.heldBranchTags 1, t.toNat ≠ (16 : UTag).toNat) ∧ 16 < seventeen.length := by
  refine ⟨by decide, by decide, ⟨by decide, rfl, rfl, rfl, fun st => by cases st <;> decide⟩, by decide, by decide,
    by decide⟩

theorem witness_DeadlinesOfAPendingEntry :
    let s := busy.setEntry 31 (.orphaned carried5 4000 .lost)
    let c := calm.setEntry 31 (.orphaned carried5 4000 .lost)
    let q := withB1 (queued [aSlot])
    (s.entry 0 = .waiting carried5 5 1000 ∧ s.reaches 1000 = true) ∧
      (q.entry 0 = .waiting carried5 5 1000 ∧ q.reaches 1000 = false) ∧
      (s.entry 31 = .orphaned carried5 4000 .lost ∧ s.reaches 4000 = false) ∧
      c.entry 31 = .orphaned carried5 4000 .lost ∧ c.reaches 4000 = true := by decide

theorem witness_PlacingAReply :
    busy.resetPin = false ∧ busy.u.port.link ≠ .quiet ∧ quietU.resetPin = false ∧ quietU.u.port.link = .quiet := by decide

theorem witness_FramesThatEndOrMissAStep :
    let i := withB1 (running .identify)
    let a := withB1 (running (.assign 2))
    (busy.br 1).takesFrames = true ∧ (busy.br 1).enumeration = .idle ∧
      ((a.br 1).takesFrames = true ∧ (a.br 1).enumeration = .running (.assign 2) 700) ∧
      ((i.br 1).takesFrames = true ∧ (i.br 1).enumeration = .running .identify 700) ∧ 7 < (8 : Byte).toNat ∧
      (1 : Byte).toNat = (1 : Position).val ∧ i.record 1 1 = .assigned (aMember 18) 0x440000 := by decide

/-- B1 with a pool that one member fills. -/
def fullPool : BranchUnit :=
  { running .identify with
    config := { BranchConfig.default with poolBase := 0x400000, poolExp := 18 }
    records := (Vector.replicate 8 Record.vacant).set 0 (.assigned (aMember 18) 0x400000) }

theorem witness_DescriptorIsReclaimedOrPlacedLowest :
    let s := withB1 { running .identify with records := branch1.records.set 7 (.lost (aMember 16) (some 0x500000)) }
    let full := withB1 fullPool
    ((s.br 1).port.link = .up ∧ (s.br 1).enumeration = .running .identify 700 ∧ (7 : Byte).toNat = (7 : Position).val ∧
        (s.record 1 7).isAssigned = false ∧ (s.record 1 7).isIdentified = false) ∧
      (s.record 1 7).reclaims (aMember 16) 0x500000 ∧ (∀ base, ¬(s.record 1 7).reclaims (aMember 17) base) ∧
      ((s.br 1).fitsPool 17 0 ∧ (s.br 1).isClear 7 17 0 ∧ ∀ j', j' < 0 → ¬(s.br 1).isClear 7 17 j') ∧
      ((full.record 1 1).isAssigned = false ∧ (full.record 1 1).isIdentified = false ∧
        (∀ base, ¬(full.record 1 1).reclaims (aMember 18) base) ∧
        ∀ j, (full.br 1).fitsPool 18 j → ¬(full.br 1).isClear 1 18 j) := by
  refine ⟨by decide, ⟨aMember 16, by decide, rfl, rfl⟩, ?_, ⟨?_, ?_, fun j hj => absurd hj (Nat.not_lt_zero j)⟩, by decide,
    by decide, ?_, ?_⟩
  · rintro base ⟨old, h, -, hk⟩
    have : old = aMember 16 := by
      have h' : Record.lost (aMember 16) (some 0x500000) = .lost old (some base) := h
      injection h' with h1; exact h1.symm
    rw [this] at hk
    exact absurd hk (by decide)
  · show 0 + 0 * 2 ^ 17 + 2 ^ 17 ≤ 0 + 2 ^ 24; decide
  · exact fun h hh => by revert h; decide
  · rintro base ⟨old, h, -⟩
    exact nomatch (h : Record.vacant = .lost old (some base))
  · intro j hj
    have hj' : 0x400000 + j * 2 ^ 18 + 2 ^ 18 ≤ 0x400000 + 2 ^ 18 := hj
    have : j = 0 := by omega
    subst this
    exact fun h => absurd (h (0x400000, 18) (by decide)) (by decide)

theorem witness_AssignedCompletesTheStep :
    let s := withB1 { running (.assign 2) with records := branch1.records.set 2 (.identified (aMember 12) 0x410000) }
    let i := withB1 (running .identify)
    ((s.br 1).port.link = .up ∧ (s.br 1).enumeration = .running (.assign 2) 700 ∧
        s.record 1 2 = .identified (aMember 12) 0x410000 ∧ (2 : Byte).toNat = (2 : Position).val ∧
        (10 : Byte).toNat ≠ (2 : Position).val) ∧ ((i.br 1).enumeration = .running .identify 700 ∧ i.reaches 700 = true) ∧
      (withB1 { running .identify with queue := [aSlot] }).reaches 700 = false := by decide

theorem witness_ChainBreakLosesWhatIsBeyond : (busy.br 1).takesFrames = true ∧ ((withB1 (asleep false none)).br 1).takesFrames = true := by
  decide

theorem witness_ChainMendMayStartEnumeration :
    ((busy.br 1).takesFrames = true ∧ (busy.br 1).config.autoEnumerate = true ∧ (busy.br 1).state = .active ∧
        (busy.br 1).enumeration = .idle) ∧
      ((withB1 (asleep false none)).br 1).takesFrames = true ∧ ((withB1 (asleep false none)).br 1).state ≠ .active := by decide

theorem witness_AttentionJoinsMergesOrIsDiscarded :
    let s : State := { busy with notices := [aNotice] }
    (busy.br 1).takesFrames = true ∧ 7 < (8 : Byte).toNat ∧
      ((7 : Byte).toNat = (7 : Position).val ∧ (busy.record 1 7).isAssigned = false) ∧
      ((0 : Byte).toNat = (0 : Position).val ∧ (busy.record 1 0).isAssigned = true ∧
        busy.hasNotice (.attachment 1 0) = false) ∧ s.hasNotice (.attachment 1 0) = true := by decide

theorem witness_RaisingASelfCause :
    busy.hasNotice .self = false ∧ ({ busy with notices := [selfNotice] } : State).hasNotice .self = true := by decide

theorem witness_PresentationIsMadeSkippedOrDeferred :
    let s : State := { calm with notices := [aNotice], rePresentTimer := some 50000 }
    let full : State := { s with egress := [.attention 9] }
    (s.notices = aNotice :: [] ∧ s.rePresentTimer = some 50000 ∧ s.reaches 50000 = true ∧ s.member ≠ none ∧
        ∀ code, .attention code ∉ s.egress) ∧
      ({ s with member := none } : State).member = none ∧ (∃ code, .attention code ∈ full.egress) ∧
      ({ busy with notices := [aNotice], rePresentTimer := some 50000 } : State).reaches 50000 = false :=
  ⟨⟨rfl, rfl, by decide, by decide, fun _ h => nomatch h⟩, rfl, ⟨9, List.mem_cons_self⟩, by decide⟩

theorem witness_ManagementReadReturnsTheWords :
    ({ busy with mgmtQueue := [{ hdr := .tagged .read 9, offset := 0x744, count := 2, data := [] }] } : State).mgmtQueue.head? =
      some { hdr := .tagged .read 9, offset := 0x744, count := 2, data := [] } ∧ (0x744 + 4 * 0) / 4 ≠ 0x748 / 4 ∧
      (0x744 + 4 * 1) / 4 = 0x748 / 4 := by decide

/-- A READ of the last word of the management block is held at the ingress head, and the input queue is full. -/
def holding : State :=
  { withFrame (.tagged .read 9) 0x25000FFC 1 [] with
    held := true
    mgmtQueue := List.replicate 2 { hdr := .post, offset := 0x014, count := 1, data := [50] } }

theorem witness_ManagementReadReturnsTheWords_held :
    let r : Request := { hdr := .tagged .read 9, addr := 0x25000FFC, count := 1, data := [] }
    busy.held = false ∧ holding.held = true ∧ holding.ingress = r :: [] ∧ holding.startsAt r 0xFFC ∧
      0xFFC + 4 * r.count.toNat ≤ 4096 ∧ holding.mgmtQueue.tail.length < 2 := by
  refine ⟨rfl, rfl, rfl, ⟨?_, _, rfl, ?_⟩, ?_⟩
  · unfold Request.isMalformed; decide
  · decide
  · decide

theorem witness_SwapIsDenied : (managed (.tagged .swap 7) 0x014 [1]).mgmtQueue.head? =
    some { hdr := .tagged .swap 7, offset := 0x014, count := 1, data := [1] } := by decide

theorem witness_WriteIsJudgedInOrder :
    let r : MgmtRequest := { hdr := .tagged .write 8, offset := 0x010, count := 2, data := [0, 9] }
    let window : MgmtRequest := { hdr := .post, offset := 0x100, count := 4, data := [0, 0, 0x80000006, 0] }
    let config : MgmtRequest := { hdr := .post, offset := 0x078, count := 3, data := [0, 0x0001040B, 0x00010001] }
    let interval : MgmtRequest := { hdr := .post, offset := 0x014, count := 1, data := [256] }
    let source33 : MgmtRequest := { hdr := .post, offset := 0x018, count := 1, data := [0x211] }
    let wake6 : MgmtRequest := { hdr := .post, offset := 0x084, count := 1, data := [6] }
    let pool : MgmtRequest := { hdr := .post, offset := 0x078, count := 3, data := [0x1000, 0x0001040C, 0x00010001] }
    let dormant : MgmtRequest := { hdr := .post, offset := 0x084, count := 1, data := [4] }
    ((managed (.tagged .write 8) 0x010 [0, 9]).mgmtQueue.head? = some r ∧ isWrite r.hdr = true ∧
        wordRecord 0x010 = .readOnly) ∧
      (wordRecord 0x07C = .config 1 1 ∧ ¬(0x07C ≤ configOffset 1 ∧ configOffset 1 + 12 ≤ 0x07C + 4 * 2)) ∧
      (wordRecord 0x054 = .branchCommand 0 ∧ wordRecord (0x054 + 4 * 12) = .branchCommand 1) ∧
      (wordRecord 0x100 = .window 0 0 ∧ (window.windowFor 0).valid = true ∧ ¬(8 ≤ (window.windowFor 0).sizeExp.toNat)) ∧
      (wordRecord 0x078 = .config 1 0 ∧ ¬(12 ≤ (config.configFor 1).poolExp)) ∧
      (wordRecord 0x014 = .interval ∧ 255 < (interval.wordAt 0x014).toNat) ∧
      (wordRecord 0x018 = .globalCommand ∧ (source33.wordAt 0x018).toNat % 16 = 1 ∧
        32 < (source33.wordAt 0x018).toNat / 16 % 64) ∧
      (wordRecord 0x084 = .branchCommand 1 ∧ 5 < (wake6.wordAt (0x054 + 48 * (1 : Branch).val)).toNat % 16) ∧
      ((pool.configFor 1).inRange = true ∧ (pool.configFor 1).poolBase ≠ (busy.br 1).config.poolBase ∧
        busy.record 1 0 ≠ .vacant) ∧
      (dormant.command? (.branchCommand 1) = some (.dormant 1) ∧
        (withB1 hushing).commandAccepted (.dormant 1) = false) ∧
      wordRecord 0xFFC = .unmapped := by decide

/-- The writes of one record that the statements of commands speak of. -/
theorem nextWrite_managed (offset : Nat) (data : List Word) :
    (managed (.tagged .write 9) offset data).nextWrite (.tagged .write 9) offset data :=
  ⟨rfl, rfl⟩

/-- The last two entries, the second of them lawful, invalid or unlawful by its third word. -/
theorem witness_WindowEntryIsWrittenWhole :
    let data := fun w : Word => [0xFFFF00, 0x100, 0x80000008, 0, 0x2000, 0, w, 5]
    (∀ w, (managed (.tagged .write 9) (0x100 + 16 * 30) (data w)).nextWrite (.tagged .write 9)
        (0x100 + 16 * (30 : WindowIx).val) (data w)) ∧ (30 : WindowIx).val + 2 ≤ 32 ∧
      (∀ w, (data w).length = 4 * 2) ∧
      (8 ≤ 8 ∧ 8 ≤ 28 ∧ 8 ≤ busy.spanExp ∧ (0xFFFF00 : Word).toNat % 2 ^ 8 = 0 ∧ (0x100 : Word).toNat % 2 ^ 8 = 0 ∧
        (0xFFFF00 : Word).toNat + 2 ^ 8 ≤ 2 ^ busy.spanExp ∧ 4096 ≤ (0xFFFF00 : Word).toNat) ∧
      (0x80000008 : Word).getLsbD 31 = true ∧ (7 : Word).getLsbD 31 = false ∧
      (0x80000007 : Word).getLsbD 31 = true ∧ ¬(8 ≤ (0x80000007 : Word).toNat % 256) :=
  ⟨fun _ => nextWrite_managed _ _, by decide, fun _ => rfl, by decide, by decide, by decide, by decide, by decide⟩

theorem witness_ConfigurationAndIntervalWrites :
    (managed (.tagged .write 9) 0x078 [0x1F000, 0x1100C, 0x10001]).nextWrite (.tagged .write 9) (0x048 + 48 * (1 : Branch).val)
        [0x1F000, 0x1100C, 0x10001] ∧
      ((0x1100C : Word).toNat % 256 = 12 ∧ (0x1100C : Word).toNat / 256 % 256 = 16 ∧ (0x1F000 : Word).toNat % 2 ^ 12 = 0 ∧
        (0x10001 : Word).toNat % 65536 = 1 ∧ (0x10001 : Word).toNat / 65536 = 1) ∧
      ((0x1F000 : Word) ≠ (busy.br 1).config.poolBase ∧ busy.record 1 0 ≠ .vacant ∧
        (busy.br 2).enumeration = .idle ∧ ∀ p : Position, busy.record 2 p = .vacant) ∧
      ¬(12 ≤ (0x1100B : Word).toNat % 256) ∧
      (managed (.tagged .write 9) 0x014 [255]).nextWrite (.tagged .write 9) 0x014 [255] ∧ (255 : Word).toNat ≤ 255 ∧
      255 < (256 : Word).toNat ∧
      (managed (.tagged .write 9) 0x078 [0, 0x10418, 0x10001, 3]).nextWrite (.tagged .write 9)
        (0x048 + 48 * (1 : Branch).val) [0, 0x10418, 0x10001, 3] ∧
      branchCommand 1 3 = some (.branchReset 1) ∧ busy.commandAccepted (.branchReset 1) = true ∧
      (branchCommand 1 4 = some (.dormant 1) ∧ (withB1 hushing).commandAccepted (.dormant 1) = false) ∧
      5 < (15 : Word).toNat % 16 :=
  ⟨nextWrite_managed _ _, by decide, by decide, by decide, nextWrite_managed _ _, by decide, by decide,
    nextWrite_managed _ _, by decide, by decide, by decide, by decide⟩

/-- The write of one command word to B1, and the state in which the unit carries it out. -/
def commanded (u : BranchUnit) (w : Word) : State :=
  (managed (.tagged .write 9) 0x084 [w]).setBr 1 u

theorem nextWrite_commanded (u : BranchUnit) (w : Word) :
    (commanded u w).nextWrite (.tagged .write 9) (0x054 + 48 * (1 : Branch).val) [w] :=
  ⟨rfl, rfl⟩

theorem witness_EnumerateAndDormantCommands :
    (commanded branch1 1).nextWrite (.tagged .write 9) (0x054 + 48 * (1 : Branch).val) [1] ∧ (1 : Word).toNat % 16 = 1 ∧
      (((commanded branch1 1).afterHeadLeaves.br 1).state = .active ∧
        ((commanded branch1 1).afterHeadLeaves.br 1).clearOwed = false ∧
        ((commanded branch1 1).afterHeadLeaves.br 1).enumeration = .idle) ∧
      ((commanded hushing 4).afterHeadLeaves.br 1).state ≠ .active ∧ (4 : Word).toNat % 16 = 4 ∧
      (16 : Word).toNat % 16 = 0 ∧ 5 < (6 : Word).toNat % 16 :=
  ⟨nextWrite_commanded _ _, by decide, by decide, by decide, by decide, by decide, by decide⟩

theorem witness_WakeAndReleaseCommands :
    let draining := commanded { branch1 with state := .draining } 5
    let sleeping := commanded (asleep true none) 5
    let failed := commanded { branch1 with state := .failed, port := upPort.goOff } 5
    let records := (branch1.records.set 7 (.lost (aMember 16) none)).set 2 (.unplaced (aMember 30))
    let released := commanded { branch1 with records := records } 0x72
    (draining.nextWrite (.tagged .write 9) (0x054 + 48 * (1 : Branch).val) [5] ∧
        (draining.afterHeadLeaves.br 1).state = .draining ∧ (5 : Word).toNat % 16 = 5) ∧
      ((commanded branch1 5).afterHeadLeaves.br 1).state = .active ∧
      ((sleeping.afterHeadLeaves.br 1).state = .dormant ∧ sleeping.afterHeadLeaves.resetPin = false) ∧
      (failed.afterHeadLeaves.br 1).state = .failed ∧
      (released.nextWrite (.tagged .write 9) (0x054 + 48 * (1 : Branch).val) [0x72] ∧ (0x72 : Word).toNat % 16 = 2 ∧
        (0x72 : Word).toNat / 16 % 8 = (7 : Position).val) ∧
      released.afterHeadLeaves.record 1 0 = .assigned (aMember 16) 0x400000 ∧
      released.afterHeadLeaves.record 1 7 = .lost (aMember 16) none ∧
      released.afterHeadLeaves.record 1 2 = .unplaced (aMember 30) ∧ released.afterHeadLeaves.record 1 3 = .vacant ∧
      sleeping.afterHeadLeaves.record 1 0 = .assigned (aMember 16) 0x400000 ∧
      (sleeping.afterHeadLeaves.br 1).state ≠ .active ∧ (sleeping.afterHeadLeaves.br 1).state ≠ .draining :=
  ⟨⟨nextWrite_commanded _ _, by decide, by decide⟩, by decide, by decide, by decide,
    ⟨nextWrite_commanded _ _, by decide, by decide⟩, by decide, by decide, by decide, by decide, by decide, by decide,
    by decide⟩

theorem witness_BranchResetStartsTheBranchAfresh :
    (commanded (asleep true none) 3).nextWrite (.tagged .write 9) (0x054 + 48 * (1 : Branch).val) [3] ∧
      (3 : Word).toNat % 16 = 3 ∧ (commanded (asleep true none) 3).resetPin = false :=
  ⟨nextWrite_commanded _ _, by decide, by decide⟩

theorem witness_NoticeAckRemovesOrRejoins :
    let s : State := { managed (.tagged .write 9) 0x018 [0x91] with notices := [aNotice, selfNotice] }
    s.nextWrite (.tagged .write 9) 0x018 [0x91] ∧ (0x91 : Word).toNat % 16 = 1 ∧
      (0x91 : Word).toNat / 16 % 64 = 1 + 8 * (1 : Branch).val + (0 : Position).val ∧
      s.afterHeadLeaves.hasNotice (.attachment 1 0) = true ∧ s.afterHeadLeaves.hasNotice (.attachment 3 7) = false ∧
      (0x201 : Word).toNat / 16 % 64 = 1 + 8 * (3 : Branch).val + (7 : Position).val ∧
      32 < (0x211 : Word).toNat / 16 % 64 ∧ (0x0801 : Word).toNat / 16 % 64 = 0 ∧
      s.afterHeadLeaves.hasNotice .self = true ∧ s.afterHeadLeaves.selfCauses &&& BitVec.ofNat 17 (0x0801 / 1024) ≠ 0 ∧
      s.afterHeadLeaves.selfCauses &&& BitVec.ofNat 17 (0x0401 / 1024) = 0 :=
  ⟨⟨rfl, rfl⟩, by decide, by decide, by decide, by decide, by decide, by decide, by decide, by decide, by decide,
    by decide⟩

theorem witness_ClearCountersZeroesEveryCounter :
    (managed (.tagged .write 9) 0x018 [2]).nextWrite (.tagged .write 9) 0x018 [2] ∧ (2 : Word).toNat % 16 = 2 :=
  ⟨nextWrite_managed _ _, by decide⟩

/-! ### The laws hold of a busy part, and a step takes it on -/

/-- The busy part with a READ under tag 9 at its ingress head and the classifier's take waiting. -/
def stepping : State :=
  { withFrame (.tagged .read 9) 0x25140100 4 [] with pending := [.classifierTake] }

/-- A step of it answers a next state. -/
theorem stepping_steps : step stepping = .next (after .classifierTake { stepping with pending := [] }) := rfl

theorem witness_StepKeepsTagLaw : stepping.TagLaw := by decide

theorem witness_StepKeepsCreditAndUpstreamLaws : stepping.CreditLaw ∧ stepping.UpstreamLaw := by decide

theorem witness_StepKeepsBranchesLawful : stepping.UpstreamLaw ∧ stepping.BranchesLawful :=
  ⟨by decide, by decide⟩

theorem witness_StepKeepsBranchTagAndDormancyLaws :
    stepping.BranchTagLaw ∧ stepping.BranchesLawful ∧ stepping.DormancyLaw :=
  ⟨by decide, witness_StepKeepsBranchesLawful.2, by decide⟩

theorem witness_StepKeepsRangeAndWindowLaws : stepping.RangeLaw ∧ stepping.WindowLaw := by decide

/-- The same with two notices, the timer running. -/
def noticed : State :=
  { stepping with notices := [aNotice, selfNotice], rePresentTimer := some 50000 }

theorem witness_StepKeepsNoticeLaw : noticed.BranchesLawful ∧ noticed.NoticeLaw :=
  ⟨witness_StepKeepsBranchesLawful.2, by decide⟩

theorem witness_StepKeepsRequestLaw : (stepping.UpstreamLaw ∧ stepping.RequestLaw) ∧ stepping.RequestsOnTime := by
  exact ⟨by decide, by decide, fun _ _ _ d _ => Nat.zero_le d⟩

/-- With a word of each kind at the edges of its region. -/
theorem witness_WordsOfTheBlock :
    (stepping.UpstreamLaw ∧ stepping.BranchesLawful) ∧ stepping.entry 0 = .waiting carried5 5 1000 ∧
      stepping.entry 31 = .free ∧ stepping.record 1 0 = .assigned (aMember 16) 0x400000 ∧
      noticed.notices[1]? = some selfNotice ∧ (0x03C % 4 = 0 ∧ 0x6FC < 0x700 ∧ 0x7FC < 0x800 ∧ 0x900 ≤ 0xFFC) :=
  ⟨witness_StepKeepsBranchesLawful, by decide⟩

end Sys2Proof.Tests
end

namespace Sys2Proof.Machine

open Sys2Proof

/-- An aligned range that starts below a larger power of two ends by it (R2). -/
theorem aligned_add_le {a k n : Nat} (hk : k ≤ n) (h : a % 2 ^ k = 0) (hlt : a < 2 ^ n) : a + 2 ^ k ≤ 2 ^ n := by
  obtain ⟨q, rfl⟩ := Nat.dvd_of_mod_eq_zero h
  obtain ⟨m, hm⟩ : 2 ^ k ∣ 2 ^ n := Nat.pow_dvd_pow 2 hk
  rw [hm] at hlt ⊢
  have hq : q + 1 ≤ m := Nat.lt_of_mul_lt_mul_left hlt
  exact (Nat.mul_succ _ _).symm.trans_le (Nat.mul_le_mul_left _ hq)

/-! ### The checks of the classifier (R29 to R37) -/

/-- The malformed test is that of R29. -/
theorem Request.malformed_iff (r : Request) : r.malformed = true ↔ r.isMalformed := by
  simp only [Request.malformed, Request.isMalformed, Bool.or_eq_true, Bool.and_eq_true, beq_iff_eq, bne_iff_ne,
    decide_eq_true_eq, or_assoc]

theorem State.classify_malformed (s : State) {r : Request} (h : r.isMalformed) : s.classify r = .refuse .malformed :=
  if_pos ((Request.malformed_iff r).2 h)

theorem State.classify_wellFormed (s : State) {r : Request} (h : ¬r.isMalformed) : s.classify r = s.route r :=
  if_neg fun g => h ((Request.malformed_iff r).1 g)

/-- A request to an UNASSIGNED part, or to an address outside its span, has no route (R30, R31). -/
theorem State.route_outside {s : State} {r : Request} (h : s.member = none ∨ ∃ base, s.member = some base ∧
    (r.addr.toNat < base.toNat ∨ base.toNat + 2 ^ s.spanExp ≤ r.addr.toNat)) : s.route r = .refuse .noroute := by
  unfold State.route
  rcases h with h | ⟨base, h, hout⟩ <;> rw [h]
  exact if_pos hout

/-- The checks of a request that starts in the span, at a span offset (R2, R32, R34). -/
theorem State.route_startsAt {s : State} {r : Request} {off : Nat} (h : s.startsAt r off) :
    s.route r =
      if off < Config.managementBytes then
        if Config.managementBytes ≤ off + 4 * r.count.toNat - 1 then .refuse .bounds else .manage off
      else
        match s.lookup off with
        | none => .refuse .noroute
        | some i =>
          if (s.windows[i]).rights.admits r.hdr = false then .refuse .denied
          else if (s.windows[i]).offset.toNat + 2 ^ (s.windows[i]).sizeExp.toNat ≤ off + 4 * r.count.toNat - 1 then
            .refuse .bounds
          else s.admitTo i (s.windows[i]).branch (s.translated off i) r.count.toNat := by
  obtain ⟨-, base, hm, hlo, hhi, rfl⟩ := h
  unfold State.route
  rw [hm]
  dsimp only
  rw [if_neg (by omega)]
  rfl

/-- The lookup finds the lowest-numbered valid window that contains the offset (R10). -/
theorem State.lookup_isMatch {s : State} {off : Nat} {i : WindowIx} (h : s.isMatch off i) : s.lookup off = some i :=
  (find_lowest _ i).2 h

theorem State.lookup_none {s : State} {off : Nat} (h : ∀ i : WindowIx, (s.windows[i]).contains off = false) :
    s.lookup off = none :=
  (find_none _).2 h

/-- The checks of a request that starts in a window (R5, R11). -/
theorem State.route_isMatch {s : State} {r : Request} {off : Nat} {i : WindowIx} (h : s.startsAt r off)
    (ho : 4096 ≤ off) (hi : s.isMatch off i) : s.route r =
      if (s.windows[i]).rights.admits r.hdr = false then .refuse .denied
      else if (s.windows[i]).offset.toNat + 2 ^ (s.windows[i]).sizeExp.toNat ≤ off + 4 * r.count.toNat - 1 then
        .refuse .bounds
      else s.admitTo i (s.windows[i]).branch (s.translated off i) r.count.toNat := by
  rw [State.route_startsAt h, if_neg (by unfold Config.managementBytes; omega), State.lookup_isMatch hi]

/-- A request that fits its window is judged by the window's branch (R35, R36, R37). -/
theorem State.route_fitsWindow {s : State} {r : Request} {off : Nat} {i : WindowIx} (h : s.fitsWindow r off i) :
    s.route r = s.admitTo i (s.windows[i]).branch (s.translated off i) r.count.toNat := by
  obtain ⟨hstart, hoff, hmatch, hrights, hend⟩ := h
  rw [State.route_isMatch hstart hoff hmatch, if_neg (by rw [hrights]; decide), if_neg (by omega)]

/-- The lowest position whose ASSIGNED record holds the range (R36). -/
theorem BranchUnit.holder_some {u : BranchUnit} {a n : Nat} {p : Position} (h : (u.records[p]).admits a n = true)
    (hlow : ∀ q : Position, q < p → (u.records[q]).admits a n = false) : u.holder a n = some p :=
  (find_lowest _ p).2 ⟨h, hlow⟩

theorem BranchUnit.holder_none {u : BranchUnit} {a n : Nat} (h : ∀ p : Position, (u.records[p]).admits a n = false) :
    u.holder a n = none :=
  (find_none _).2 h

/-- A branch that some position can serve has a holder. -/
theorem BranchUnit.holder_isSome {u : BranchUnit} {a n : Nat} (h : ∃ p : Position, (u.records[p]).admits a n = true) :
    ∃ p, u.holder a n = some p := by
  obtain ⟨p, hp⟩ := h
  cases hh : u.holder a n with
  | none => exact nomatch hp.symm.trans ((find_none _).1 hh p)
  | some q => exact ⟨q, rfl⟩

theorem State.admitTo_lost {s : State} {i : WindowIx} {b : Branch} {a n : Nat}
    (h : (s.br b).state = .down ∨ (s.br b).state = .failed) : s.admitTo i b a n = .refuse .lost :=
  if_pos h

/-- On a branch that is neither DOWN nor FAILED the attachment and the queue decide (R36, R37). -/
theorem State.admitTo_eq {s : State} {i : WindowIx} {b : Branch} {a n : Nat} (hd : (s.br b).state ≠ .down)
    (hf : (s.br b).state ≠ .failed) : s.admitTo i b a n =
      match (s.br b).holder a n with
      | none => .refuse .absent
      | some p => if Config.forwardSlots ≤ (s.br b).queue.length then .refuse .busy else .enqueue i b a p :=
  if_neg (not_or.2 ⟨hd, hf⟩)

/-- What the checks pass to the management unit lies in the block (R32, R34). -/
theorem State.route_manage {s : State} {r : Request} {off : Nat} (h : s.route r = .manage off) :
    ∃ base, s.member = some base ∧ base.toNat ≤ r.addr.toNat ∧ off = r.addr.toNat - base.toNat ∧
      off + 4 * r.count.toNat - 1 < Config.managementBytes := by
  unfold State.route at h
  split at h
  · exact nomatch h
  · rename_i base hm
    dsimp only at h
    split at h
    · exact nomatch h
    · rename_i hin
      split at h
      · split at h
        · exact nomatch h
        · rename_i hend
          injection h with h
          subst h
          exact ⟨base, hm, by omega, rfl, by omega⟩
      · split at h
        · exact nomatch h
        · split at h
          · exact nomatch h
          · split at h
            · exact nomatch h
            · unfold State.admitTo at h
              dsimp only at h
              split at h
              · exact nomatch h
              · split at h
                · exact nomatch h
                · split at h <;> exact nomatch h

/-! ### The take (R24 to R28, R39) -/

/-- The request of a header accepted: a tag enters the register, with one reservation; a POST has none (R27). -/
def State.accepted (h : ReqHeader) (s : State) : State :=
  { s with tagReg := s.tagReg ++ hdrTags h, reservations := s.reservations + (hdrTags h).length }

/-- A head that may be taken is accepted, and its verdict is carried out. -/
theorem State.takeHead_of_mayTake {s : State} {r : Request} (h : s.mayTake r) :
    s.takeHead = (s.accepted r.hdr).settle r (s.classify r) := by
  obtain ⟨hheld, hhead, hroom, hfree⟩ := h
  obtain ⟨rest, hing⟩ := List.head?_eq_some_iff.1 hhead
  unfold State.takeHead
  rw [hheld, hing]
  dsimp only
  cases hh : r.hdr with
  | post =>
    have same : s.accepted .post = s := by simp [State.accepted, hdrTags]
    rw [same]
  | tagged k t =>
    rw [hh] at hroom hfree
    have hfree : s.tagReg.contains t = false := by simpa using hfree t (by simp [hdrTags])
    dsimp only
    rw [if_pos (hroom (by simp [hdrTags])), if_neg (by simp only [hfree]; decide)]
    rfl

/-- The head of an accepted request has left the buffer. -/
theorem State.dropIngressHead_accepted {s : State} {h : ReqHeader} (hh : s.held = false) :
    (s.accepted h).dropIngressHead = s.headGone.accepted h := by
  rw [State.dropIngressHead_eq_headGone (s := s.accepted h) hh]
  rfl

/-- A refusal at the take, its acceptance taken back: what the parent and the counters see of it (R28, R39, R41). -/
theorem State.settle_refuse {s : State} {r : Request} (h : s.mayTake r) (why : RefuseReason) :
    (s.accepted r.hdr).settle r (.refuse why) =
      State.refusedAtTake r.hdr why.status { s.headGone with classifier := s.classifier.count why } := by
  obtain ⟨hheld, -, -, hfree⟩ := h
  show ((s.accepted r.hdr).dropIngressHead).refuseRequest r.hdr why = _
  rw [State.dropIngressHead_accepted hheld]
  cases hh : r.hdr with
  | post => simp [State.refuseRequest, State.refusedAtTake, State.accepted, hdrTags, State.headGone]
  | tagged k t =>
    have hfree : t ∉ s.tagReg := hfree t (by simp [hh, hdrTags])
    have back : (s.tagReg ++ [t]).filter (· ≠ t) = s.tagReg := by
      rw [List.filter_append, List.filter_eq_self.2 fun g hg => by simpa using fun e : g = t => hfree (e ▸ hg)]
      simp
    simp only [State.refuseRequest, State.refusedAtTake, State.placeReply, State.accepted, State.headGone, hdrTags, back]
    rfl

/-- CLASSIFIER_TAKE of a head that the checks refuse. -/
theorem exec_classifierTake_refused {s : State} {r : Request} (h : s.mayTake r) {why : RefuseReason}
    (hv : s.classify r = .refuse why) : exec .classifierTake s =
      .next (State.refusedAtTake r.hdr why.status { s.headGone with classifier := s.classifier.count why }) := by
  show Host.Outcome.next s.takeHead = _
  rw [State.takeHead_of_mayTake h, hv, State.settle_refuse h]

/-- Settles O23: each refusal is one verdict of the checks, in the order of R25. -/
theorem headRefusedBeforeAnyWindow : Obligations.HeadRefusedBeforeAnyWindow := by
  intro s r h
  refine ⟨fun hm => ?_, fun hw hout => ?_, fun off hs hlt hend => ?_, fun off hs hge hnone => ?_⟩
  · exact exec_classifierTake_refused h (s.classify_malformed hm)
  · exact exec_classifierTake_refused h ((s.classify_wellFormed hw).trans (State.route_outside hout))
  · refine exec_classifierTake_refused h (why := .bounds) ?_
    rw [s.classify_wellFormed hs.1, State.route_startsAt hs]
    exact (if_pos hlt).trans (if_pos hend)
  · refine exec_classifierTake_refused h (why := .noroute) ?_
    rw [s.classify_wellFormed hs.1, State.route_startsAt hs, State.lookup_none hnone]
    exact if_neg (Nat.not_lt.2 hge)

/-- Settles O24: the checks from the rights of the window on, in the order of R25. -/
theorem headRefusedAtItsWindow : Obligations.HeadRefusedAtItsWindow := by
  intro s r off i h
  refine ⟨fun hs hge hi hrights => ?_, fun hs hge hi hrights hend => ?_, fun hfit u hu => ?_⟩
  · refine exec_classifierTake_refused h (why := .denied) ?_
    rw [s.classify_wellFormed hs.1, State.route_isMatch hs hge hi, if_pos hrights]
  · refine exec_classifierTake_refused h (why := .bounds) ?_
    rw [s.classify_wellFormed hs.1, State.route_isMatch hs hge hi, if_neg (by rw [hrights]; decide), if_pos hend]
  · have route := (s.classify_wellFormed hfit.1.1).trans (State.route_fitsWindow hfit)
    subst hu
    refine ⟨fun hlost => ?_, fun hd hf => ⟨fun hnone => ?_, fun hsome hfull => ?_⟩⟩
    · exact exec_classifierTake_refused h (route.trans (State.admitTo_lost hlost))
    · refine exec_classifierTake_refused h (why := .absent) ?_
      rw [route, State.admitTo_eq hd hf, BranchUnit.holder_none hnone]
    · obtain ⟨p, hp⟩ := BranchUnit.holder_isSome hsome
      refine exec_classifierTake_refused h (why := .busy) ?_
      rw [route, State.admitTo_eq hd hf, hp]
      exact if_pos hfull

/-- Settles O25: the verdict is that of the management block, and the length of the input queue decides. -/
theorem managementRequestJoinsOrIsHeld : Obligations.ManagementRequestJoinsOrIsHeld := by
  intro s r off h hs hend a ha
  have hwords : r.count.toNat ≠ 0 := fun e => hs.1 (.inl e)
  have hv : s.classify r = .manage off := by
    rw [s.classify_wellFormed hs.1, State.route_startsAt hs]
    unfold Config.managementBytes
    rw [if_pos (by omega), if_neg (by omega)]
  have take : exec .classifierTake s = .next (a.settle r (.manage off)) := by
    show Host.Outcome.next s.takeHead = _
    rw [State.takeHead_of_mayTake h, hv, ha]
    rfl
  have hheld : a.held = false := ha ▸ h.1
  have hqueue : a.mgmtQueue = s.mgmtQueue := by rw [ha]
  rw [take]
  unfold State.settle
  dsimp only
  rw [hqueue]
  refine ⟨fun hroom => ?_, fun hfull => ?_⟩
  · rw [if_pos (show _ < Config.managementPlaces from hroom), State.dropIngressHead_eq_headGone (by exact hheld)]
    rfl
  · rw [if_neg (show ¬_ < Config.managementPlaces from Nat.not_lt.2 hfull)]

/-- The entry into WAKING of a branch just replaced, while RESET is not asserted (R136, R195). -/
theorem State.enterWaking_setBr (x : State) (b : Branch) (u : BranchUnit) (h : x.resetPin = false) :
    (x.setBr b u).enterWaking b = x.setBr b { u with
      state := .waking (x.now + Config.wakeTimer)
      controller := { u.controller with wakes := u.controller.wakes + 1 }
      port := if u.port.link = .up then u.port else u.port.train x.now
      credit := if u.port.link = .up then u.credit else 0 } := by
  simp [State.enterWaking_eq, State.updBr_eq, State.trained, h]

/-- Settles O26: the head is enqueued at the lowest position that holds it, and a DORMANT branch enters WAKING. -/
theorem headJoinsForwardQueue : Obligations.HeadJoinsForwardQueue := by
  intro s r off i p h hfit hpin b hb hd hf hroom hadm hlow u hu
  have hv : s.classify r = .enqueue i b (s.translated off i) p := by
    rw [s.classify_wellFormed hfit.1.1, State.route_fitsWindow hfit, ← hb, State.admitTo_eq hd hf,
      BranchUnit.holder_some hadm hlow]
    exact if_neg (Nat.not_le.2 hroom)
  show Host.Outcome.next s.takeHead = _
  rw [State.takeHead_of_mayTake h, hv]
  congr 1
  obtain ⟨x, hx⟩ : ∃ x : State, x = { s.headGone with
    tagReg := s.tagReg ++ hdrTags r.hdr
    reservations := s.reservations + (hdrTags r.hdr).length
    windows := s.windows.set i.val { s.windows[i] with hits := (s.windows[i]).hits + 1 } i.isLt } := ⟨_, rfl⟩
  have joined : (s.accepted r.hdr).settle r (.enqueue i b (s.translated off i) p) =
      if u.state = .dormant then (x.setBr b u).enterWaking b else x.setBr b u := by
    show ((s.accepted r.hdr).dropIngressHead).enqueueRequest r i b (s.translated off i) p = _
    rw [State.dropIngressHead_accepted h.1, hx, hu]
    rfl
  have hnow : x.now = s.now := by rw [hx]; rfl
  rw [joined, ← hx, State.enterWaking_setBr x b u (by rw [hx]; exact hpin), hnow]
  split <;> rfl

/-- Settles O27: the window is aligned, so its target range ends by 2^32. -/
theorem translationStaysBehindTheWindow : Obligations.TranslationStaysBehindTheWindow := by
  intro s r off i hlaw hfit
  obtain ⟨⟨hwell, -⟩, -, hmatch, -, hend⟩ := hfit
  obtain ⟨hvalid, hin⟩ := Bool.and_eq_true_iff.1 hmatch.1
  have hin := of_decide_eq_true hin
  have hlaw := hlaw i
  unfold Window.lawful at hlaw
  rw [hvalid, Bool.not_true, Bool.false_or, decide_eq_true_eq] at hlaw
  obtain ⟨-, hk, -, -, htarget, -⟩ := hlaw
  have hwords : r.count.toNat ≠ 0 := fun e => hwell (.inl e)
  unfold State.translated
  refine ⟨by omega, by omega, ?_⟩
  exact aligned_add_le (by omega) htarget (s.windows[i]).target.isLt

end Sys2Proof.Machine

namespace Sys2Proof.Machine

open Sys2Proof

/-! ### A happening that adds no request, no range and no deadline -/

/-- What the laws of this part look at. -/
def State.store (s : State) :=
  (s.now, s.spanExp, s.windows, s.mgmtQueue, s.held, s.ingress, s.entries, s.branches)

/-- Branch v holds no slot and no range that branch u does not, and its pool is that of u unless it holds no range at all. -/
structure BranchUnit.Sheds (u v : BranchUnit) : Prop where
  queue : v.queue ⊆ u.queue
  range : ∀ p : Position, (v.records[p]).range? = none ∨ (v.records[p]).range? = (u.records[p]).range?
  pool : (v.config.poolBase = u.config.poolBase ∧ v.config.poolExp = u.config.poolExp) ∨
    ∀ p : Position, (v.records[p]).range? = none
  inRange : u.config.inRange = true → v.config.inRange = true

/-- State t holds no request, no range and no unlawful window that s does not, and no WAITING entry but those of s and such as
have time left; the clock stands. -/
structure State.Sheds (s t : State) : Prop where
  now : t.now = s.now
  spanExp : t.spanExp = s.spanExp
  windows : ∀ i : WindowIx, (s.windows[i]).lawful s.spanExp = true → (t.windows[i]).lawful s.spanExp = true
  mgmtQueue : t.mgmtQueue.Sublist s.mgmtQueue
  held : t.held = true → s.held = true ∧ ∀ r, s.ingress.head? = some r → t.ingress.head? = some r
  branch : ∀ b : Branch, (s.br b).Sheds (t.br b)
  entry : ∀ (e : EntryIx) (c : Carried) (ut : UTag) (d : Time),
    t.entry e = .waiting c ut d → s.entry e = .waiting c ut d ∨ s.now ≤ d

theorem BranchUnit.Sheds.of_frame {u v : BranchUnit} (hq : v.queue = u.queue) (hr : v.records = u.records)
    (hc : v.config = u.config) : u.Sheds v where
  queue := hq ▸ List.Subset.refl _
  range p := .inr (by rw [hr])
  pool := .inl (by rw [hc]; exact ⟨rfl, rfl⟩)
  inRange h := by rw [hc]; exact h

theorem BranchUnit.Sheds.refl (u : BranchUnit) : u.Sheds u :=
  .of_frame rfl rfl rfl

theorem BranchUnit.Sheds.trans {u v w : BranchUnit} (h : u.Sheds v) (g : v.Sheds w) : u.Sheds w where
  queue := List.Subset.trans g.queue h.queue
  range p := by
    rcases g.range p with e | e
    · exact .inl e
    · rw [e]; exact h.range p
  pool := by
    rcases g.pool with ⟨e1, e2⟩ | e
    · rcases h.pool with ⟨f1, f2⟩ | f
      · exact .inl ⟨e1.trans f1, e2.trans f2⟩
      · exact .inr fun p => (g.range p).elim id fun x => x.trans (f p)
    · exact .inr e
  inRange hi := g.inRange (h.inRange hi)

/-- A branch that empties its records sheds, whatever pool within the ranges of R142 it takes. -/
theorem BranchUnit.Sheds.of_vacant {u v : BranchUnit} (hq : v.queue ⊆ u.queue) (hr : v.records = Vector.replicate 8 .vacant)
    (hc : u.config.inRange = true → v.config.inRange = true) : u.Sheds v :=
  have none : ∀ p : Position, (v.records[p]).range? = none := fun p => by rw [hr]; simp; rfl
  ⟨hq, fun p => .inl (none p), .inr none, hc⟩

/-- A state whose store is that of s sheds nothing. -/
theorem State.Sheds.of_store {s t : State} (h : t.store = s.store) : s.Sheds t := by
  simp only [State.store, Prod.mk.injEq] at h
  obtain ⟨hnow, hspan, hwin, hmq, hheld, hing, hent, hbr⟩ := h
  have br : ∀ b, t.br b = s.br b := fun b => congrArg (·[b]) hbr
  have en : ∀ e, t.entry e = s.entry e := fun e => congrArg (·[e]) hent
  exact ⟨hnow, hspan, fun i hi => by rw [hwin]; exact hi, hmq ▸ List.Sublist.refl _,
    fun hh => ⟨hheld ▸ hh, fun r hr => hing ▸ hr⟩, fun b => br b ▸ .refl _, fun e c ut d he => .inl (en e ▸ he)⟩

theorem State.Sheds.refl (s : State) : s.Sheds s :=
  .of_store rfl

theorem State.Sheds.trans {s t u : State} (h : s.Sheds t) (g : t.Sheds u) : s.Sheds u where
  now := g.now.trans h.now
  spanExp := g.spanExp.trans h.spanExp
  windows i hi := h.spanExp ▸ g.windows i (h.spanExp.symm ▸ h.windows i hi)
  mgmtQueue := g.mgmtQueue.trans h.mgmtQueue
  held hu :=
    have ⟨ht, gi⟩ := g.held hu
    have ⟨hs, hi⟩ := h.held ht
    ⟨hs, fun r hr => gi r (hi r hr)⟩
  branch b := (h.branch b).trans (g.branch b)
  entry e c ut d hu := by
    rcases g.entry e c ut d hu with ht | hd
    · exact h.entry e c ut d ht
    · exact .inr (h.now ▸ hd)

/-- The same, the later happening first. -/
theorem State.Sheds.after {s t u : State} (g : t.Sheds u) (h : s.Sheds t) : s.Sheds u :=
  h.trans g

/-! ### The operations on one branch -/

theorem State.updBr_sheds (s : State) (b : Branch) (f : BranchUnit → BranchUnit) (h : (s.br b).Sheds (f (s.br b))) :
    s.Sheds (s.updBr b f) where
  now := rfl
  spanExp := rfl
  windows _ hi := hi
  mgmtQueue := .refl _
  held hh := ⟨hh, fun _ hr => hr⟩
  branch c := by
    rw [State.updBr_eq, State.br_setBr_eq]
    split
    · rename_i e; rw [e]; exact h
    · exact .refl _
  entry _ _ _ _ he := .inl he

/-- A change of a branch that leaves its queue, its records and its configuration. -/
theorem State.updBr_sheds_of_frame (s : State) (b : Branch) (f : BranchUnit → BranchUnit)
    (h : ∀ u, (f u).queue = u.queue ∧ (f u).records = u.records ∧ (f u).config = u.config) : s.Sheds (s.updBr b f) :=
  have ⟨hq, hr, hc⟩ := h (s.br b)
  s.updBr_sheds b f (.of_frame hq hr hc)

theorem State.hand_sheds (s : State) (b : Branch) (f : BranchFrame) : s.Sheds (s.hand b f) :=
  s.updBr_sheds_of_frame b _ fun u => by split <;> exact ⟨rfl, rfl, rfl⟩

theorem State.trainBranch_sheds (s : State) (b : Branch) : s.Sheds (s.trainBranch b) :=
  s.updBr_sheds_of_frame b _ fun _ => ⟨rfl, rfl, rfl⟩

theorem State.updPort_sheds (s : State) (p : Port) (f : LinkPort → LinkPort) : s.Sheds (s.updPort p f) := by
  cases p with
  | u => exact .of_store rfl
  | branch b =>
    show s.Sheds (s.updBr b fun u => { u with port := f u.port })
    exact s.updBr_sheds_of_frame b _ fun _ => ⟨rfl, rfl, rfl⟩

theorem State.stopEnumeration_sheds (s : State) (b : Branch) (o : EnumOutcome) : s.Sheds (s.stopEnumeration b o) :=
  s.updBr_sheds_of_frame b _ fun _ => ⟨rfl, rfl, rfl⟩

theorem State.abortEnumeration_sheds (s : State) (b : Branch) : s.Sheds (s.abortEnumeration b) := by
  unfold State.abortEnumeration
  split
  · exact s.stopEnumeration_sheds b _
  · exact .refl _

theorem State.beginStep_sheds (s : State) (b : Branch) : s.Sheds (s.beginStep b) :=
  .after (State.hand_sheds _ b .identify) (s.updBr_sheds_of_frame b _ fun _ => ⟨rfl, rfl, rfl⟩)

theorem State.startEnumeration_sheds (s : State) (b : Branch) : s.Sheds (s.startEnumeration b) :=
  .after (State.beginStep_sheds _ b) (s.updBr_sheds_of_frame b _ fun _ => ⟨rfl, rfl, rfl⟩)

theorem State.emptyQueue_sheds (s : State) (b : Branch) : s.Sheds (s.emptyQueue b) :=
  s.updBr_sheds b _ ⟨List.nil_subset _, fun _ => .inr rfl, .inl ⟨rfl, rfl⟩, id⟩

theorem State.popSlot_sheds (s : State) (b : Branch) : s.Sheds (s.popSlot b) :=
  s.updBr_sheds b _ ⟨List.tail_subset _, fun _ => .inr rfl, .inl ⟨rfl, rfl⟩, id⟩

/-- A record made LOST keeps the range it held (R112, R113, R115). -/
@[simp] theorem Record.lose_range? (r : Record) : r.lose.range? = r.range? := by
  cases r <;> rfl

/-- A record that becomes ASSIGNED keeps the range it held (R103). -/
@[simp] theorem Record.assign_range? (r : Record) : r.assign.range? = r.range? := by
  cases r <;> rfl

theorem State.loseRecords_sheds (s : State) (b : Branch) (sel : Position → Bool) : s.Sheds (s.loseRecords b sel) :=
  s.updBr_sheds b _ ⟨List.Subset.refl _, fun p => .inr (by rw [mapTable_get]; split <;> simp), .inl ⟨rfl, rfl⟩, id⟩

theorem State.vacateRecords_sheds (s : State) (b : Branch) : s.Sheds (s.vacateRecords b) :=
  s.updBr_sheds b _ (.of_vacant (List.Subset.refl _) rfl id)

/-- The record that stands at a position once one is replaced. -/
theorem records_set_get (rs : Vector Record 8) (p q : Position) (r : Record) :
    (rs.set p.val r p.isLt)[q] = if q = p then r else rs[q] := by
  by_cases h : q = p
  · subst h; simp
  · have : p.val ≠ q.val := fun e => h (Fin.ext e.symm)
    simp [h, this]

/-- Replacing a record by one that holds no range, or the same one. -/
theorem State.setRecord_sheds (s : State) (b : Branch) (p : Position) (r : Record)
    (h : r.range? = none ∨ r.range? = (s.record b p).range?) : s.Sheds (s.setRecord b p r) := by
  refine s.updBr_sheds b _ ⟨List.Subset.refl _, fun q => ?_, .inl ⟨rfl, rfl⟩, id⟩
  rw [records_set_get]
  split
  · rename_i e; rw [e]; exact h
  · exact .inr rfl

theorem State.enterWaking_sheds (s : State) (b : Branch) : s.Sheds (s.enterWaking b) := by
  rw [State.enterWaking_eq]
  exact s.updBr_sheds_of_frame b _ fun _ => ⟨rfl, rfl, rfl⟩

/-! ### The operations on the pending entries -/

/-- A change of the entries that makes none WAITING but such as were, or have time left. -/
theorem State.entries_sheds (s : State) (es : Vector PendingEntry 32)
    (h : ∀ (e : EntryIx) (c : Carried) (ut : UTag) (d : Time),
      es[e] = .waiting c ut d → s.entry e = .waiting c ut d ∨ s.now ≤ d) :
    s.Sheds { s with entries := es } :=
  ⟨rfl, rfl, fun _ hi => hi, .refl _, fun hh => ⟨hh, fun _ hr => hr⟩, fun _ => .refl _, h⟩

theorem State.setEntry_sheds (s : State) (e : EntryIx) (x : PendingEntry)
    (h : ∀ (c : Carried) (ut : UTag) (d : Time), x = .waiting c ut d → s.now ≤ d) : s.Sheds (s.setEntry e x) := by
  refine s.entries_sheds _ fun e' c ut d he => ?_
  by_cases hx : e' = e
  · subst hx
    exact .inr (h c ut d ((State.entry_setEntry s e' x).symm.trans he))
  · exact .inl ((State.entry_setEntry_ne s x hx).symm.trans he)

theorem State.freeEntries_sheds (s : State) (b : Branch) : s.Sheds (s.freeEntries b) := by
  refine (s.entries_sheds (mapTable (fun _ e => if e.onBranch b then .free else e) s.entries) ?_).trans (.of_store rfl)
  intro e c ut d he
  rw [mapTable_get] at he
  split at he
  · exact nomatch he
  · exact .inl he

theorem State.orphanWaiting_sheds (s : State) (b : Branch) (sel : Carried → Bool) (st : Status) :
    s.Sheds (s.orphanWaiting b sel st) := by
  refine (s.entries_sheds (s.orphanWaiting b sel st).entries ?_).trans (.of_store rfl)
  intro e c ut d he
  have h := State.orphanWaiting_entry s b sel st e
  rw [State.entry, he] at h
  split at h
  · rename_i hs
    split at h
    · exact nomatch h
    · exact .inl (hs.trans h.symm)
  · exact nomatch h
  · exact nomatch h

/-! ### The egress queue and the notice unit -/

theorem State.placeReply_sheds (s : State) (t : UTag) (st : Status) (d : Byte) (ws : List Word) :
    s.Sheds (s.placeReply t st d ws) :=
  .of_store (by simp [State.store])

theorem State.answer_sheds (s : State) (h : ReqHeader) (st : Status) : s.Sheds (s.answer h st) :=
  .of_store (by simp [State.store])

theorem State.answerAll_sheds (s : State) (hs : List ReqHeader) (st : Status) : s.Sheds (s.answerAll hs st) :=
  .of_store (by simp [State.store])

theorem State.presentationDue_sheds (s : State) : s.Sheds s.presentationDue :=
  .of_store (by simp [State.store])

theorem State.joinNotice_sheds (s : State) (n : NoticeBody) : s.Sheds (s.joinNotice n) :=
  .of_store (by simp [State.store])

theorem State.raise_sheds (s : State) (c : Cause) : s.Sheds (s.raise c) :=
  .of_store (by simp [State.store])

theorem State.afterRemoval_sheds (s : State) (kept : List Notice) (g : Bool) : s.Sheds (s.afterRemoval kept g) :=
  .of_store (by simp [State.store])

theorem State.removeNotices_sheds (s : State) (gone : Source → Bool) : s.Sheds (s.removeNotices gone) :=
  .of_store (by simp [State.store])

theorem State.removeNoticesOf_sheds (s : State) (b : Branch) (gone : Position → Bool) :
    s.Sheds (s.removeNoticesOf b gone) :=
  .of_store (by simp [State.store])

theorem noticeDoings_sheds (b : Branch) (gone : Position → Bool) (ended : Bool) (cause : Option Cause) (s : State) :
    s.Sheds (noticeDoings b gone ended cause s) :=
  .of_store (by rw [noticeDoings_frame]; rfl)

theorem State.endEnumeration_sheds (s : State) (b : Branch) (o : EnumOutcome) : s.Sheds (s.endEnumeration b o) :=
  (s.stopEnumeration_sheds b o).trans (State.raise_sheds _ _)

theorem State.inOpenOrder_sheds (s : State) (f g : State → State) (hf : ∀ x : State, x.Sheds (f x))
    (hg : ∀ x : State, x.Sheds (g x)) : s.Sheds (s.inOpenOrder f g) := by
  have next : s.Sheds { s with choices := s.choices + 1 } := .of_store rfl
  rcases State.inOpenOrder_cases f g s with e | e <;> rw [e]
  · exact next.trans ((hg _).trans (hf _))
  · exact next.trans ((hf _).trans (hg _))

/-- The answers and the notice doings of a branch event. -/
theorem State.branchEvent_sheds (s : State) (hs : List ReqHeader) (st : Status) (b : Branch) (gone : Position → Bool)
    (ended : Bool) (cause : Option Cause) :
    s.Sheds (s.inOpenOrder (State.answerAll hs st) (noticeDoings b gone ended cause)) :=
  s.inOpenOrder_sheds _ _ (fun x => x.answerAll_sheds hs st) (fun x => noticeDoings_sheds b gone ended cause x)

/-! ### The events of a branch -/

theorem State.judgeDrain_sheds (s : State) (b : Branch) : s.Sheds (s.judgeDrain b) := by
  unfold State.judgeDrain
  split
  · exact .after (State.hand_sheds _ b .hush) <| .after (State.freeEntries_sheds _ b) <|
      s.updBr_sheds_of_frame b _ fun _ => ⟨rfl, rfl, rfl⟩
  · exact .refl _

theorem State.branchLinkLoss_sheds (s : State) (b : Branch) : s.Sheds (s.branchLinkLoss b) := by
  rw [State.branchLinkLoss_event]
  exact .after (State.branchEvent_sheds _ _ _ _ _ _ _) <|
    .after (State.updBr_sheds_of_frame _ b _ fun _ => ⟨rfl, rfl, rfl⟩) <|
    .after (State.abortEnumeration_sheds _ b) <| .after (State.loseRecords_sheds _ b _) <|
    .after (State.freeEntries_sheds _ b) <| s.emptyQueue_sheds b

theorem State.wakeFails_sheds (s : State) (b : Branch) : s.Sheds (s.wakeFails b) := by
  rw [State.wakeFails_event]
  exact .after (State.branchEvent_sheds _ _ _ _ _ _ _) <|
    .after (State.updBr_sheds_of_frame _ b _ fun _ => ⟨rfl, rfl, rfl⟩) <|
    .after (State.loseRecords_sheds _ b _) <| .after (State.freeEntries_sheds _ b) <| s.emptyQueue_sheds b

theorem State.takeBreak_sheds (s : State) (b : Branch) (k : Nat) : s.Sheds (s.takeBreak b k) := by
  rw [State.takeBreak_event]
  exact .after (State.judgeDrain_sheds _ b) <| .after (State.branchEvent_sheds _ _ _ _ _ _ _) <|
    .after (State.updBr_sheds_of_frame _ b _ fun _ => ⟨rfl, rfl, rfl⟩) <|
    .after (State.updBr_sheds_of_frame _ b _ fun _ => ⟨rfl, rfl, rfl⟩) <|
    .after (State.loseRecords_sheds _ b _) <| s.orphanWaiting_sheds b _ .lost

theorem State.resetBranchState_sheds (s : State) (b : Branch) : s.Sheds (s.resetBranchState b) := by
  have active : s.Sheds (s.updBr b fun u => { u with state := .active }) :=
    s.updBr_sheds_of_frame b _ fun _ => ⟨rfl, rfl, rfl⟩
  have cleared : s.Sheds (if (s.br b).unsent.contains .clear then s.updBr b fun u => { u with state := .active }
      else (s.updBr b fun u => { u with state := .active }).hand b .resetClear) := by
    split
    · exact active
    · exact active.trans (State.hand_sheds _ b _)
  unfold State.resetBranchState
  dsimp only
  cases (s.br b).state with
  | active | draining => exact cleared
  | dormant | failed => exact s.enterWaking_sheds b
  | waking | down => exact .refl _

theorem State.resetBranch_sheds (s : State) (b : Branch) : s.Sheds (s.resetBranch b) := by
  rw [State.resetBranch_event]
  exact .after (State.branchEvent_sheds _ _ _ _ _ _ _) <| .after (State.resetBranchState_sheds _ b) <|
    .after (State.updBr_sheds_of_frame _ b _ fun _ => ⟨rfl, rfl, rfl⟩) <|
    .after (State.abortEnumeration_sheds _ b) <| .after (State.vacateRecords_sheds _ b) <|
    .after (State.orphanWaiting_sheds _ b _ .flushed) <| s.emptyQueue_sheds b

theorem State.wakeByNeighbour_sheds (s : State) (b : Branch) : s.Sheds (s.wakeByNeighbour b) := by
  unfold State.wakeByNeighbour
  split
  · exact .after (State.raise_sheds _ _) (s.updBr_sheds_of_frame b _ fun _ => ⟨rfl, rfl, rfl⟩)
  · exact .after (State.enterWaking_sheds _ b) (s.updBr_sheds_of_frame b _ fun _ => ⟨rfl, rfl, rfl⟩)

end Sys2Proof.Machine

namespace Sys2Proof.Machine

open Sys2Proof

/-! ### Resets and links -/

/-- A window entry that is not valid is lawful under every span (R7). -/
theorem Window.lawful_of_invalid {w : Window} (k : Nat) (h : w.valid = false) : w.lawful k = true := by
  simp [Window.lawful, h]

theorem State.linkReset_sheds (s : State) : s.Sheds s.linkReset where
  now := rfl
  spanExp := rfl
  windows i _ := Window.lawful_of_invalid _ (by simp [State.linkReset, Window.cleared])
  mgmtQueue := List.nil_sublist _
  held h := nomatch h
  branch b := by
    have e : s.linkReset.br b = (s.br b).afterLinkReset s.now := mapTable_get _ _ _
    rw [e]
    exact .of_vacant (List.nil_subset _) rfl fun _ => (by decide : BranchConfig.default.inRange = true)
  entry e c ut d h := by simp [State.entry, State.linkReset] at h

theorem State.zeroCounters_sheds (s : State) : s.Sheds s.zeroCounters where
  now := rfl
  spanExp := rfl
  windows i h := by
    have e : s.zeroCounters.windows[i] = { s.windows[i] with hits := 0 } := mapTable_get _ _ _
    rw [e]; exact h
  mgmtQueue := .refl _
  held h := ⟨h, fun _ hr => hr⟩
  branch b := by
    have e : s.zeroCounters.br b = (s.br b).zeroCounters := mapTable_get _ _ _
    rw [e]; exact .of_frame rfl rfl rfl
  entry _ _ _ _ h := .inl h

/-- A change of every branch that leaves queues, records and configurations. -/
theorem State.mapBranches_sheds (s : State) (f : Branch → BranchUnit → BranchUnit)
    (h : ∀ b u, (f b u).queue = u.queue ∧ (f b u).records = u.records ∧ (f b u).config = u.config) :
    s.Sheds { s with branches := mapTable f s.branches } where
  now := rfl
  spanExp := rfl
  windows _ hi := hi
  mgmtQueue := .refl _
  held hh := ⟨hh, fun _ hr => hr⟩
  branch b := by
    have e : ({ s with branches := mapTable f s.branches } : State).br b = f b (s.br b) := mapTable_get _ _ _
    obtain ⟨hq, hr, hc⟩ := h b (s.br b)
    rw [e]; exact .of_frame hq hr hc
  entry _ _ _ _ he := .inl he

theorem State.signalWakeU_sheds (s : State) : s.Sheds s.signalWakeU :=
  .of_store (by simp [State.store])

theorem State.uLinkLoss_sheds (s : State) : s.Sheds s.uLinkLoss := by
  have counted : s.Sheds { s with upstream := { s.upstream with linkLosses := s.upstream.linkLosses + 1 } } :=
    .of_store rfl
  exact (counted.trans (State.linkReset_sheds _)).trans (.of_store rfl)

theorem State.branchLeavesUp_sheds (s : State) (b : Branch) : s.Sheds (s.branchLeavesUp b) := by
  have trained : s.Sheds (State.trainBranch b (s.updBr b fun u => { u with unsent := [] })) :=
    .after (State.trainBranch_sheds _ b) (s.updBr_sheds_of_frame b _ fun _ => ⟨rfl, rfl, rfl⟩)
  unfold State.branchLeavesUp
  dsimp only
  split
  · exact .after (State.branchLinkLoss_sheds _ b) trained
  · exact trained

theorem State.leaveUp_sheds (s : State) (p : Port) : s.Sheds (s.leaveUp p) := by
  cases p with
  | u => exact s.uLinkLoss_sheds
  | branch b => exact s.branchLeavesUp_sheds b

theorem State.departure_sheds (s : State) (p : Port) : s.Sheds (s.departure p) := by
  unfold State.departure
  split
  · exact s.leaveUp_sheds p
  · exact .refl s

theorem State.receiveBad_sheds (s : State) (p : Port) : s.Sheds (s.receiveBad p) := by
  have counted := s.updPort_sheds p LinkPort.countBad
  unfold State.receiveBad
  dsimp only
  split
  · split
    · exact counted
    · have risen := counted.trans (State.updPort_sheds _ p fun q => { q with badRun := (s.portOf p).badRun + 1 })
      split
      · exact risen.trans (State.leaveUp_sheds _ p)
      · exact risen
  · split
    · exact counted
    · exact .refl s
  · exact counted
  · exact .refl s

theorem State.discardOn_sheds (s : State) (b : Branch) : s.Sheds (s.discardOn b) :=
  s.updBr_sheds_of_frame b _ fun _ => ⟨rfl, rfl, rfl⟩

theorem State.branchEntersUp_sheds (s : State) (b : Branch) : s.Sheds (s.branchEntersUp b) := by
  unfold State.branchEntersUp
  dsimp only
  split
  · exact .after (State.hand_sheds _ b .clear) (s.updBr_sheds_of_frame b _ fun _ => ⟨rfl, rfl, rfl⟩)
  · exact s.updBr_sheds_of_frame b _ fun _ => ⟨rfl, rfl, rfl⟩

theorem State.receiveCredit_sheds (s : State) (b : Branch) (n : Byte) : s.Sheds (s.receiveCredit b n) := by
  unfold State.receiveCredit
  dsimp only
  split
  · exact s.updBr_sheds_of_frame b _ fun u => by split <;> exact ⟨rfl, rfl, rfl⟩
  · exact s.discardOn_sheds b

theorem State.afterHush_sheds (s : State) (b : Branch) : s.Sheds (s.afterHush b) := by
  unfold State.afterHush
  cases (s.br b).state with
  | waking => exact s.trainBranch_sheds b
  | down | active | draining | dormant | failed => exact s.updBr_sheds_of_frame b _ fun _ => ⟨rfl, rfl, rfl⟩

/-- A request that arrives joins behind the head of the ingress buffer. -/
theorem State.receiveRequest_sheds (s : State) (r : Request) : s.Sheds (s.receiveRequest r) := by
  unfold State.receiveRequest
  split
  · exact .of_store rfl
  · exact ⟨rfl, rfl, fun _ hi => hi, .refl _, fun hh => ⟨hh, fun r' hr => by simp [hr]⟩, fun _ => .refl _,
      fun _ _ _ _ he => .inl he⟩

theorem State.onU_sheds (s : State) (take : State → State) (h : ∀ x : State, x.Sheds (take x)) : s.Sheds (s.onU take) := by
  unfold State.onU
  split
  · have good : s.Sheds s.goodFrameOnU := .of_store rfl
    exact good.trans (h _)
  · exact .refl s

theorem State.onBranch_sheds (s : State) (b : Branch) (take : State → State) (h : ∀ x : State, x.Sheds (take x)) :
    s.Sheds (s.onBranch b take) := by
  have good : s.Sheds (s.goodFrameOn b) := s.updBr_sheds_of_frame b _ fun _ => ⟨rfl, rfl, rfl⟩
  unfold State.onBranch
  split
  · exact good.trans (h _)
  · exact .refl s

theorem State.onFrame_sheds (s : State) (p : Port) (data : List Word) (take : State → State)
    (h : ∀ x : State, x.Sheds (take x)) : s.Sheds (s.onFrame p data take) := by
  unfold State.onFrame
  split
  · exact s.receiveBad_sheds p
  · exact h s

/-! ### Forwarder and tracker -/

theorem State.failRecheck_sheds (s : State) (b : Branch) (q : Slot) : s.Sheds (s.failRecheck b q) :=
  .after (State.judgeDrain_sheds _ b) <| .after (State.answer_sheds _ _ _) <|
    .after (State.updBr_sheds_of_frame _ b _ fun _ => ⟨rfl, rfl, rfl⟩) <| s.popSlot_sheds b

theorem State.sendHead_sheds (s : State) (b : Branch) (f : BranchFrame) : s.Sheds (s.sendHead b f) :=
  .after (State.hand_sheds _ b f) <| .after (State.updBr_sheds_of_frame _ b _ fun _ => ⟨rfl, rfl, rfl⟩) <|
    s.popSlot_sheds b

/-- The entry of a request issued now has its whole reply timeout left (R64). -/
theorem State.issueTagged_sheds (s : State) (b : Branch) (q : Slot) (k : TaggedKind) (ut : UTag) (t : BTag) (e : EntryIx) :
    s.Sheds (s.issueTagged b q k ut t e) :=
  .after (State.sendHead_sheds _ b _) <| s.setEntry_sheds e _ fun c ut d h => by
    injection h with _ _ hd
    exact hd ▸ Nat.le_add_right _ _

theorem State.issueHead_sheds (s : State) (b : Branch) : s.Sheds (s.issueHead b) := by
  unfold State.issueHead
  split
  · exact .refl s
  · split
    · split
      · split
        · exact .after (State.judgeDrain_sheds _ b) (s.sendHead_sheds b _)
        · exact s.failRecheck_sheds b _
      · split
        · exact .refl s
        · split
          · exact s.issueTagged_sheds b _ _ _ _ _
          · exact s.failRecheck_sheds b _
    · exact .refl s

theorem State.ageSlots_sheds (s : State) (b : Branch) : s.Sheds (s.ageSlots b) :=
  .after (State.judgeDrain_sheds _ b) <| .after (State.answerAll_sheds _ _ _) <|
    s.updBr_sheds b _ ⟨List.filter_subset_self _, fun _ => .inr rfl, .inl ⟨rfl, rfl⟩, id⟩

theorem State.passUpward_sheds (s : State) (c : Carried) (ut : UTag) (status detail : Byte) (data : List Word) :
    s.Sheds (s.passUpward c ut status detail data) := by
  unfold State.passUpward
  split
  · exact s.placeReply_sheds _ _ _ _
  · exact .after (State.placeReply_sheds _ _ _ _ _) (.of_store rfl)

theorem State.freeEntry_sheds (s : State) (e : EntryIx) : s.Sheds (s.setEntry e .free) :=
  s.setEntry_sheds e .free fun _ _ _ h => nomatch h

theorem State.takeReply_sheds (s : State) (b : Branch) (tag : UTag) (status detail : Byte) (data : List Word) :
    s.Sheds (s.takeReply b tag status detail data) := by
  unfold State.takeReply
  split
  · exact .of_store rfl
  · split
    · exact .refl s
    · exact .after (State.judgeDrain_sheds _ b) <| .after (State.passUpward_sheds _ _ _ _ _ _) <| s.freeEntry_sheds _
    · exact (s.freeEntry_sheds _).trans (.of_store rfl)

theorem State.replyTimedOut_sheds (s : State) (e : EntryIx) (c : Carried) (ut : UTag) : s.Sheds (s.replyTimedOut e c ut) := by
  have orphaned : s.Sheds (s.setEntry e (.orphaned c (s.orphanDeadline c.branch) .timeout)) :=
    s.setEntry_sheds e _ fun _ _ _ h => nomatch h
  have counted := orphaned.trans (.of_store (t := { s.setEntry e (.orphaned c (s.orphanDeadline c.branch) .timeout) with
    tracker := { s.tracker with timeout := s.tracker.timeout + 1 } }) rfl)
  exact .after (State.judgeDrain_sheds _ _) <| .after (State.placeReply_sheds _ _ _ _ _) counted

/-! ### Chain controller and notice unit -/

theorem State.countUnexpected_sheds (s : State) (b : Branch) : s.Sheds (s.countUnexpected b) :=
  s.updBr_sheds_of_frame b _ fun _ => ⟨rfl, rfl, rfl⟩

/-- An ASSIGN handed to a member sheds where the record that holds its range held it before. -/
theorem State.assignRange_sheds (s : State) (b : Branch) (p : Position) (m : Member) (base : Word)
    (h : (s.record b p).range? = some (base.toNat, m.sizeExp.toNat)) : s.Sheds (s.assignRange b p m base) :=
  .after (State.hand_sheds _ b _) <| .after (State.updBr_sheds_of_frame _ b _ fun _ => ⟨rfl, rfl, rfl⟩) <|
    s.setRecord_sheds b p _ (.inr h.symm)

theorem State.takeAssigned_sheds (s : State) (b : Branch) (hop : Byte) : s.Sheds (s.takeAssigned b hop) := by
  unfold State.takeAssigned
  split
  · split
    · exact .after (State.beginStep_sheds _ b) <| .after (State.updBr_sheds_of_frame _ b _ fun _ => ⟨rfl, rfl, rfl⟩) <|
        s.setRecord_sheds b _ _ (.inr (Record.assign_range? _))
    · exact .after (State.endEnumeration_sheds _ b _) <| s.setRecord_sheds b _ _ (.inl rfl)
  · exact s.countUnexpected_sheds b
  · exact s.countUnexpected_sheds b

theorem State.takeEmpty_sheds (s : State) (b : Branch) : s.Sheds (s.takeEmpty b) := by
  unfold State.takeEmpty
  split
  · exact s.endEnumeration_sheds b _
  · exact s.countUnexpected_sheds b
  · exact s.countUnexpected_sheds b

theorem State.takeMend_sheds (s : State) (b : Branch) : s.Sheds (s.takeMend b) := by
  have raised : s.Sheds (State.raise (.chain b)
      (s.updBr b fun v => { v with chain := { v.chain with mends := v.chain.mends + 1 } })) :=
    .after (State.raise_sheds _ _) (s.updBr_sheds_of_frame b _ fun _ => ⟨rfl, rfl, rfl⟩)
  unfold State.takeMend
  dsimp only
  split
  · exact .after (State.startEnumeration_sheds _ b) raised
  · exact raised

theorem State.clearSent_sheds (s : State) (b : Branch) : s.Sheds (s.clearSent b) := by
  have sent : s.Sheds (s.updBr b fun v => { v with clearOwed := v.clearOwed && v.clearWaits }) :=
    s.updBr_sheds_of_frame b _ fun _ => ⟨rfl, rfl, rfl⟩
  unfold State.clearSent
  dsimp only
  split
  · exact .after (State.startEnumeration_sheds _ b) sent
  · exact sent

theorem State.takeAttention_sheds (s : State) (b : Branch) (code hop : Byte) : s.Sheds (s.takeAttention b code hop) := by
  unfold State.takeAttention
  split
  · exact .of_store rfl
  · split
    · split
      · exact .of_store rfl
      · exact s.joinNotice_sheds _
    · exact .of_store rfl

/-! ### The commands of the management unit -/

theorem State.releaseRecord_sheds (s : State) (b : Branch) (p : Position) : s.Sheds (s.releaseRecord b p) := by
  unfold State.releaseRecord
  dsimp only
  refine .after (State.removeNoticesOf_sheds _ b _) <| .after (State.setRecord_sheds _ b p _ (.inl rfl)) ?_
  cases s.record b p with
  | assigned m base => exact s.hand_sheds b _
  | vacant | identified | unplaced | lost => exact .refl s

theorem State.wakeBranch_sheds (s : State) (b : Branch) : s.Sheds (s.wakeBranch b) := by
  have unlatched : s.Sheds (s.updBr b fun u => { u with wakeLatch := false }) :=
    s.updBr_sheds_of_frame b _ fun _ => ⟨rfl, rfl, rfl⟩
  unfold State.wakeBranch
  dsimp only
  split
  · exact .after (State.updBr_sheds_of_frame _ b _ fun _ => ⟨rfl, rfl, rfl⟩) unlatched
  · exact .after (State.enterWaking_sheds _ b) unlatched
  · exact .after (State.enterWaking_sheds _ b) unlatched
  · exact unlatched
  · exact unlatched
  · exact unlatched

theorem State.ackSelf_sheds (s : State) (cs : CauseSet) : s.Sheds (s.ackSelf cs) := by
  unfold State.ackSelf
  dsimp only
  split
  · exact s.removeNotices_sheds _
  · split
    · exact .refl s
    · exact s.afterRemoval_sheds _ _

theorem State.ackNotice_sheds (s : State) (src : Source) (cs : CauseSet) : s.Sheds (s.ackNotice src cs) := by
  cases src with
  | self => exact (s.ackSelf_sheds cs).trans (.of_store rfl)
  | attachment b p =>
    have removed : s.Sheds ((s.removeNotices (· == .attachment b p)).updBr b fun u => { u with wakeLatch := false }) :=
      .after (State.updBr_sheds_of_frame _ b _ fun _ => ⟨rfl, rfl, rfl⟩) (s.removeNotices_sheds _)
    exact removed.trans (.of_store rfl)

theorem State.applyCommand_sheds (s : State) (c : Command) : s.Sheds (s.applyCommand c) := by
  cases c with
  | enumerate b => exact s.startEnumeration_sheds b
  | release b p => exact s.releaseRecord_sheds b p
  | branchReset b => exact s.resetBranch_sheds b
  | dormant b =>
    exact .after (State.judgeDrain_sheds _ b) (s.updBr_sheds_of_frame b _ fun _ => ⟨rfl, rfl, rfl⟩)
  | wake b => exact s.wakeBranch_sheds b
  | noticeAck src cs => exact s.ackNotice_sheds src cs
  | clearCounters => exact s.zeroCounters_sheds

end Sys2Proof.Machine

namespace Sys2Proof.Machine

open Sys2Proof

/-! ### The laws that a happening keeps -/

/-- The happening from s to t keeps the laws of the ranges, of the windows and of the deadlines. -/
structure State.KeepsTables (s t : State) : Prop where
  ranges : s.RangeLaw → t.RangeLaw
  windows : s.WindowLaw → t.WindowLaw
  onTime : s.RequestsOnTime → t.RequestsOnTime

/-- The part's base, if it has one, is that of a whole word; so it is on a lawful upstream side (R165, R200). -/
def State.MemberAligned (s : State) : Prop :=
  ∀ base, s.member = some base → base.toNat % 4 = 0

/-- The happening from s to t keeps those laws and, where the part's base is aligned, that of the queued requests. -/
structure State.KeepsLaws (s t : State) : Prop extends State.KeepsTables s t where
  requests : s.MemberAligned → s.RequestLaw → t.RequestLaw

theorem State.UpstreamLaw.memberAligned {s : State} (h : s.UpstreamLaw) : s.MemberAligned := by
  obtain ⟨hspan, hbase, -⟩ := h
  intro base hm
  rw [hm] at hbase
  simp only [Option.all_some, decide_eq_true_eq] at hbase
  have h4 : 4 ∣ 2 ^ s.spanExp := by
    rcases hspan with e | e | e | e <;> rw [e] <;> decide
  exact Nat.mod_eq_zero_of_dvd (h4.trans (Nat.dvd_of_mod_eq_zero hbase))

theorem BranchUnit.Sheds.rangeLaw {u v : BranchUnit} (h : u.Sheds v) (hu : u.RangeLaw) : v.RangeLaw := by
  refine ⟨fun p => ?_, fun p q hpq => ?_⟩
  · rcases h.range p with e | e
    · rw [e]; rfl
    · rcases h.pool with ⟨e1, e2⟩ | none
      · have same : v.inPool = u.inPool := by funext g; simp [BranchUnit.inPool, e1, e2]
        rw [e, same]; exact hu.1 p
      · rw [none p]; rfl
  · rcases h.range p with e | e <;> rcases h.range q with f | f
    · rw [e]; rfl
    · rw [e]; rfl
    · rw [e, f]; cases (u.records[p]).range? <;> rfl
    · rw [e, f]; exact hu.2 p q hpq

theorem State.Sheds.requestLaw {s t : State} (h : s.Sheds t) (hs : s.RequestLaw) : t.RequestLaw := by
  obtain ⟨hlen, hmgmt, hheld, hslot⟩ := hs
  refine ⟨h.mgmtQueue.length_le.trans hlen, fun r hr => hmgmt r (h.mgmtQueue.subset hr), fun ht => ?_,
    fun b q hq => hslot b q ((h.branch b).queue hq)⟩
  obtain ⟨hsh, hhead⟩ := h.held ht
  have hw := hheld hsh
  cases hr : s.ingress.head? with
  | none => rw [hr] at hw; exact nomatch hw
  | some r => rw [hhead r hr, ← hr]; exact hw

theorem State.Sheds.keeps {s t : State} (h : s.Sheds t) : s.KeepsLaws t where
  ranges hs b := ⟨(h.branch b).rangeLaw (hs b).1, (h.branch b).inRange (hs b).2⟩
  windows hs i := h.spanExp.symm ▸ h.windows i (hs i)
  onTime hs := by
    refine ⟨fun b q hq => h.now.symm ▸ hs.1 b q ((h.branch b).queue hq), fun e c ut d he => h.now.symm ▸ ?_⟩
    rcases h.entry e c ut d he with hw | hd
    · exact hs.2 e c ut d hw
    · exact hd
  requests _ hs := h.requestLaw hs

theorem State.KeepsTables.trans {s t u : State} (h : s.KeepsTables t) (g : t.KeepsTables u) : s.KeepsTables u :=
  ⟨fun x => g.ranges (h.ranges x), fun x => g.windows (h.windows x), fun x => g.onTime (h.onTime x)⟩

/-- Two happenings, the base of the first still aligned for the second. -/
theorem State.KeepsLaws.trans {s t u : State} (h : s.KeepsLaws t) (ha : s.MemberAligned → t.MemberAligned)
    (g : t.KeepsLaws u) : s.KeepsLaws u :=
  ⟨h.toKeepsTables.trans g.toKeepsTables, fun a x => g.requests (ha a) (h.requests a x)⟩

/-- A happening that sheds, after one that keeps the laws. -/
theorem State.KeepsLaws.sheds {s t u : State} (h : s.KeepsLaws t) (g : t.Sheds u) : s.KeepsLaws u :=
  ⟨h.toKeepsTables.trans g.keeps.toKeepsTables, fun a x => g.requestLaw (h.requests a x)⟩

/-! ### Timers (R53, R70, R216) -/

/-- Where no age or reply deadline comes before d, the clock may go on to d. -/
theorem State.advanceTo_keeps (s : State) (d : Time) (h : s.reaches d = true) : s.KeepsLaws (s.advanceTo d) where
  ranges hs := hs
  windows hs := hs
  onTime hs :=
    have ⟨hq, he⟩ := (s.reaches_iff d).1 h
    ⟨fun b q hm => max_le (hs.1 b q hm) (hq b q hm), fun e c ut d' hm => max_le (hs.2 e c ut d' hm) (he e c ut d' hm)⟩
  requests _ hs := hs

theorem State.runOut_keeps (s : State) (d : Time) (act : State → State) (h : ∀ x : State, x.Sheds (act x)) :
    s.KeepsLaws (s.runOut d act) := by
  by_cases hr : s.reaches d = true
  · rw [s.runOut_of_reaches d act hr]
    exact (s.advanceTo_keeps d hr).sheds (h _)
  · rw [s.runOut_of_not d act (by simpa using hr)]
    exact (State.Sheds.refl s).keeps

/-! ### Placing a member (R95) -/

/-- The base at which a member is placed is a candidate in the pool, clear of the ranges at other positions. -/
theorem BranchUnit.placement_sound {u : BranchUnit} {p : Position} {k c : Nat} (h : u.placement p k = some c) :
    ∃ j, c = u.candidate k j ∧ u.fitsPool k j ∧ u.isClear p k j := by
  classical
  obtain ⟨found, missing⟩ := u.placement_spec p k
  by_cases hx : ∃ j, u.fitsPool k j ∧ u.isClear p k j
  · obtain ⟨m, hm, hc⟩ := hx
    have hex : ∃ j, u.isClear p k j := ⟨m, hc⟩
    have hle : Nat.find hex * 2 ^ k ≤ m * 2 ^ k := Nat.mul_le_mul_right _ (Nat.find_min' hex hc)
    have hfit : u.fitsPool k (Nat.find hex) := by
      unfold BranchUnit.fitsPool BranchUnit.candidate at hm ⊢
      omega
    have hp := found _ hfit (Nat.find_spec hex) fun j hj => Nat.find_min hex hj
    exact ⟨_, Option.some.inj (h.symm.trans hp), hfit, Nat.find_spec hex⟩
  · rw [missing fun j hf hc => hx ⟨j, hf, hc⟩] at h
    exact nomatch h

/-- The configuration values of a branch are in range: the pool is aligned, and ends by 2^32 (R94, R142). -/
theorem BranchConfig.pool_of_inRange {c : BranchConfig} (h : c.inRange = true) :
    c.poolBase.toNat % 2 ^ c.poolExp = 0 ∧ c.poolBase.toNat + 2 ^ c.poolExp ≤ 2 ^ 32 := by
  obtain ⟨-, hexp, hal, -⟩ := of_decide_eq_true h
  exact ⟨hal, aligned_add_le (by omega) hal c.poolBase.isLt⟩

/-- A candidate that ends in a pool of R94 is aligned to its size, lies in the pool, and is a word. -/
theorem BranchUnit.candidate_inPool {u : BranchUnit} {k j : Nat} (hc : u.config.inRange = true) (h : u.fitsPool k j) :
    u.inPool (u.candidate k j, k) = true ∧ (BitVec.ofNat 32 (u.candidate k j)).toNat = u.candidate k j := by
  obtain ⟨hal, hend⟩ := BranchConfig.pool_of_inRange hc
  unfold BranchUnit.fitsPool at h
  have hpos : 0 < 2 ^ k := Nat.two_pow_pos k
  have hbase : u.config.poolBase.toNat ≤ u.candidate k j := Nat.le_add_right _ _
  have hk : k ≤ u.config.poolExp := (Nat.pow_le_pow_iff_right (by decide)).1 (by omega : 2 ^ k ≤ 2 ^ u.config.poolExp)
  have hdvd : 2 ^ k ∣ u.config.poolBase.toNat :=
    (Nat.pow_dvd_pow 2 hk).trans (Nat.dvd_of_mod_eq_zero hal)
  refine ⟨decide_eq_true ⟨?_, hbase, h⟩, ?_⟩
  · exact Nat.mod_eq_zero_of_dvd (Nat.dvd_add hdvd (Nat.dvd_mul_left _ _))
  · rw [BitVec.toNat_ofNat]
    exact Nat.mod_eq_of_lt (by omega)

theorem BranchUnit.mem_heldRanges (u : BranchUnit) (p : Position) (g : Nat × Nat) :
    g ∈ u.heldRanges p ↔ ∃ q, q ≠ p ∧ (u.records[q]).range? = some g := by
  simp only [BranchUnit.heldRanges, List.mem_filterMap, List.mem_finRange, true_and]
  refine exists_congr fun q => ?_
  by_cases h : q = p <;> simp [h]

theorem overlaps_comm (g h : Nat × Nat) : overlaps g.1 g.2 h = overlaps h.1 h.2 g := by
  unfold overlaps
  rw [decide_eq_decide]
  exact and_comm

/-- A record whose range lies in the pool, clear of the ranges at other positions, may stand at a position (R93, R95). -/
theorem BranchUnit.RangeLaw.place {u : BranchUnit} (hu : u.RangeLaw) (p : Position) (r : Record) (h : Nat × Nat)
    (hr : r.range? = some h) (hp : u.inPool h = true) (hc : ∀ g ∈ u.heldRanges p, overlaps h.1 h.2 g = false) :
    ({ u with records := u.records.set p.val r p.isLt } : BranchUnit).RangeLaw := by
  have clear : ∀ q, q ≠ p → ∀ g, (u.records[q]).range? = some g → overlaps h.1 h.2 g = false :=
    fun q hq g hg => hc g ((u.mem_heldRanges p g).2 ⟨q, hq, hg⟩)
  refine ⟨fun q => ?_, fun q q' hne => ?_⟩
  · show (((u.records.set p.val r p.isLt)[q]).range?.all u.inPool) = true
    rw [records_set_get]
    split
    · rw [hr]; exact hp
    · exact hu.1 q
  · show (((u.records.set p.val r p.isLt)[q]).range?.all fun x =>
      ((u.records.set p.val r p.isLt)[q']).range?.all fun g => !overlaps x.1 x.2 g) = true
    rw [records_set_get, records_set_get]
    by_cases e : q = p
    · have e' : q' ≠ p := fun x => hne (e.trans x.symm)
      rw [if_pos e, if_neg e', hr]
      simpa [Option.all_eq_true] using clear q' e'
    · by_cases e' : q' = p
      · rw [if_neg e, if_pos e', hr]
        simp only [Option.all_eq_true, Option.all_some]
        intro g hg
        rw [overlaps_comm, clear q e g hg]
        rfl
      · rw [if_neg e, if_neg e']
        exact hu.2 q q' hne

/-- A change of records alone keeps the laws where it keeps that of the branch's ranges. -/
theorem State.setRecord_keeps (s : State) (b : Branch) (p : Position) (r : Record)
    (h : (s.br b).RangeLaw → (s.br b).config.inRange = true →
      ({ s.br b with records := (s.br b).records.set p.val r p.isLt } : BranchUnit).RangeLaw) :
    s.KeepsLaws (s.setRecord b p r) := by
  have queue : ∀ c, ((s.setRecord b p r).br c).queue = (s.br c).queue := fun c => by
    unfold State.setRecord
    rw [State.updBr_eq, State.br_setBr_eq]
    split
    · rename_i e; rw [e]
    · rfl
  refine ⟨⟨fun hs c => ?_, fun hs => hs, fun hs => ⟨fun c q hq => hs.1 c q (queue c ▸ hq), hs.2⟩⟩,
    fun _ hs => ⟨hs.1, hs.2.1, hs.2.2.1, fun c q hq => hs.2.2.2 c q (queue c ▸ hq)⟩⟩
  unfold State.setRecord
  rw [State.updBr_eq, State.br_setBr_eq]
  split
  · exact ⟨h (hs b).1 (hs b).2, (hs b).2⟩
  · exact hs c

theorem State.placeMember_keeps (s : State) (b : Branch) (p : Position) (m : Member) : s.KeepsLaws (s.placeMember b p m) := by
  unfold State.placeMember
  split
  · rename_i c hpl
    obtain ⟨j, rfl, hfit, hclear⟩ := BranchUnit.placement_sound hpl
    have placed : s.KeepsLaws (s.setRecord b p (.identified m (BitVec.ofNat 32 ((s.br b).candidate m.sizeExp.toNat j)))) :=
      s.setRecord_keeps b p _ fun hr hc =>
        have ⟨hin, hword⟩ := BranchUnit.candidate_inPool hc hfit
        hr.place p _ _ (congrArg (fun c => some (c, m.sizeExp.toNat)) hword) hin hclear
    have updated := placed.sheds (State.updBr_sheds_of_frame _ b
      (fun u => { u with enumeration := .running (.assign p) (s.now + Config.identifyTimer) }) fun _ => ⟨rfl, rfl, rfl⟩)
    exact updated.sheds (State.hand_sheds _ b _)
  · exact State.Sheds.keeps (.after (State.endEnumeration_sheds _ b _) (s.setRecord_sheds b p _ (.inl rfl)))

theorem State.takeDescriptorAt_keeps (s : State) (b : Branch) (p : Position) (m : Member) :
    s.KeepsLaws (s.takeDescriptorAt b p m) := by
  unfold State.takeDescriptorAt
  split
  · exact (s.endEnumeration_sheds b _).keeps
  · exact s.placeMember_keeps b p m
  · exact s.placeMember_keeps b p m
  · exact s.placeMember_keeps b p m
  · rename_i old range hrec
    split
    · rename_i base hre
      simp only [Record.reclaimBase?] at hre
      split at hre
      · rename_i same
        subst hre
        refine State.Sheds.keeps (.after (State.assignRange_sheds _ b p m base ?_)
          (s.updBr_sheds_of_frame b _ fun _ => ⟨rfl, rfl, rfl⟩))
        have kept : ∀ f : ChainCounters → ChainCounters,
            (s.updBr b fun u => { u with chain := f u.chain }).record b p = s.record b p := fun f => by
          simp [State.record]
        rw [kept fun c => { c with reclaimed := c.reclaimed + 1 }, hrec]
        simp [Record.range?, Record.base?, Record.member?, same.2]
      · exact nomatch hre
    · exact s.placeMember_keeps b p m

theorem State.takeDescriptor_keeps (s : State) (b : Branch) (m : Member) (hop : Byte) :
    s.KeepsLaws (s.takeDescriptor b m hop) := by
  unfold State.takeDescriptor
  split
  · split
    · exact (s.endEnumeration_sheds b _).keeps
    · exact s.takeDescriptorAt_keeps b _ m
  · exact (s.countUnexpected_sheds b).keeps
  · exact (s.countUnexpected_sheds b).keeps

end Sys2Proof.Machine

namespace Sys2Proof.Machine

open Sys2Proof

/-! ### Carrying out a verdict (R25, R32, R38) -/

/-- A verdict that queues a request queues a well-formed one and, with the management unit, one that lies in its block. -/
def Verdict.Fits (r : Request) : Verdict → Prop
  | .refuse _ => True
  | .manage off => r.malformed = false ∧ off % 4 = 0 ∧ off + 4 * r.count.toNat ≤ Config.managementBytes
  | .enqueue _ _ _ _ => r.malformed = false

/-- A request that is not malformed is fit for its kind (R29). -/
theorem Request.fitsKind_of_wellFormed {r : Request} (h : r.malformed = false) :
    fitsKind r.hdr r.count.toNat r.data = true := by
  simp only [Request.malformed, Bool.or_eq_false_iff, Bool.and_eq_false_iff, beq_eq_false_iff_ne, bne_eq_false_iff_eq,
    decide_eq_false_iff_not] at h
  obtain ⟨⟨⟨⟨h0, h16⟩, -⟩, hswap⟩, hlen⟩ := h
  simp only [fitsKind, Bool.and_eq_true, Bool.or_eq_true, decide_eq_true_eq, Bool.not_eq_true', beq_iff_eq]
  exact ⟨⟨by omega, by omega, hlen⟩, hswap⟩

/-- The checks queue no request that does not fit, where the part's base is aligned (R29, R32). -/
theorem State.route_fits {s : State} {r : Request} (ha : s.MemberAligned) (h : r.malformed = false) :
    (s.route r).Fits r := by
  cases hv : s.route r with
  | refuse why => trivial
  | enqueue i b a p => exact h
  | manage off =>
    obtain ⟨base, hm, hlo, rfl, hend⟩ := State.route_manage hv
    have hwell : ¬r.isMalformed := fun g => by rw [(Request.malformed_iff r).2 g] at h; exact nomatch h
    unfold Request.isMalformed at hwell
    have hbase := ha base hm
    exact ⟨h, by omega, by omega⟩

theorem State.classify_fits {s : State} {r : Request} (ha : s.MemberAligned) : (s.classify r).Fits r := by
  unfold State.classify
  split
  · trivial
  · rename_i h
    exact State.route_fits ha (by simpa using h)

theorem State.dropIngressHead_sheds (s : State) : s.Sheds s.dropIngressHead :=
  ⟨rfl, rfl, fun _ hi => hi, .refl _, fun hh => (nomatch hh), fun _ => .refl _, fun _ _ _ _ he => .inl he⟩

theorem State.refuseRequest_sheds (s : State) (h : ReqHeader) (why : RefuseReason) : s.Sheds (s.refuseRequest h why) := by
  cases h with
  | tagged k t => exact .after (State.placeReply_sheds _ t _ _ _) (.of_store rfl)
  | post => exact .of_store rfl

/-- A window entry that counts a hit is as lawful as before (R9). -/
theorem State.hitWindow_sheds (s : State) (i : WindowIx) :
    s.Sheds { s with windows := s.windows.set i.val { s.windows[i] with hits := (s.windows[i]).hits + 1 } i.isLt } where
  now := rfl
  spanExp := rfl
  windows j h := by
    show ((s.windows.set i.val { s.windows[i] with hits := (s.windows[i]).hits + 1 } i.isLt)[j.val]).lawful s.spanExp = true
    rw [Vector.getElem_set]
    split
    · rename_i e
      have e : i = j := Fin.ext e
      subst e
      exact h
    · exact h
  mgmtQueue := .refl _
  held hh := ⟨hh, fun _ hr => hr⟩
  branch _ := .refl _
  entry _ _ _ _ he := .inl he

/-- A slot joins a forward queue. -/
def State.pushSlot (b : Branch) (q : Slot) (s : State) : State :=
  s.updBr b fun u => { u with queue := u.queue ++ [q] }

/-- The slots of a branch once one has joined a queue. -/
theorem State.mem_pushSlot {s : State} {b c : Branch} {q x : Slot} (h : x ∈ ((s.pushSlot b q).br c).queue) :
    x ∈ (s.br c).queue ∨ x = q := by
  unfold State.pushSlot at h
  rw [State.updBr_eq, State.br_setBr_eq] at h
  split at h
  · rename_i e; subst e; simpa using h
  · exact .inl h

theorem State.pushSlot_tables (s : State) (b : Branch) (q : Slot) (h : s.now ≤ q.ageDeadline) :
    s.KeepsTables (s.pushSlot b q) where
  ranges hs c := by
    unfold State.pushSlot
    rw [State.updBr_eq, State.br_setBr_eq]
    split
    · exact hs b
    · exact hs c
  windows hs := hs
  onTime hs := ⟨fun c x hx => (State.mem_pushSlot hx).elim (hs.1 c x) fun e => e ▸ h, hs.2⟩

theorem State.pushSlot_requestLaw (s : State) (b : Branch) (q : Slot) (h : fitsKind q.hdr q.count q.data = true)
    (hs : s.RequestLaw) : (s.pushSlot b q).RequestLaw :=
  have ⟨hlen, hmgmt, hheld, hslot⟩ := hs
  ⟨hlen, hmgmt, hheld, fun c x hx => (State.mem_pushSlot hx).elim (hslot c x) fun e => e ▸ h⟩

/-- The slot that a request joins a forward queue as (R38). -/
def Request.slot (r : Request) (i : WindowIx) (addr : Nat) (p : Position) (deadline : Time) : Slot :=
  { hdr := r.hdr, addr := BitVec.ofNat 32 addr, count := r.count.toNat, data := r.data, position := p, window := i,
    ageDeadline := deadline }

/-- The parts of an enqueuing: the window counts the request, the slot joins the queue, a DORMANT branch enters WAKING. -/
theorem State.enqueueRequest_eq (s : State) (r : Request) (i : WindowIx) (b : Branch) (addr : Nat) (p : Position) :
    s.enqueueRequest r i b addr p =
      let queued := State.pushSlot b
        (r.slot i addr p (s.now + (s.br b).config.replyTimeout * Config.replyTimeoutUnit))
        { s with windows := s.windows.set i.val { s.windows[i] with hits := (s.windows[i]).hits + 1 } i.isLt }
      if (s.br b).state = .dormant then queued.enterWaking b else queued :=
  rfl

theorem State.enqueueRequest_keeps (s : State) (r : Request) (i : WindowIx) (b : Branch) (addr : Nat) (p : Position) :
    s.KeepsTables (s.enqueueRequest r i b addr p) ∧
      (r.malformed = false → s.RequestLaw → (s.enqueueRequest r i b addr p).RequestLaw) := by
  rw [State.enqueueRequest_eq]
  dsimp only
  have hit := s.hitWindow_sheds i
  generalize hq : r.slot i addr p (s.now + (s.br b).config.replyTimeout * Config.replyTimeoutUnit) = q
  have late : s.now ≤ q.ageDeadline := hq ▸ Nat.le_add_right _ _
  have fits : r.malformed = false → fitsKind q.hdr q.count q.data = true := fun h =>
    hq ▸ Request.fitsKind_of_wellFormed h
  generalize hx : ({ s with
    windows := s.windows.set i.val { s.windows[i] with hits := (s.windows[i]).hits + 1 } i.isLt } : State) = x at hit
  have tables := hit.keeps.toKeepsTables.trans (x.pushSlot_tables b q (hit.now.symm ▸ late))
  split
  · have woken := State.enterWaking_sheds (x.pushSlot b q) b
    exact ⟨tables.trans woken.keeps.toKeepsTables,
      fun h hs => woken.requestLaw (x.pushSlot_requestLaw b q (fits h) (hit.requestLaw hs))⟩
  · exact ⟨tables, fun h hs => x.pushSlot_requestLaw b q (fits h) (hit.requestLaw hs)⟩

theorem State.settle_tables (s : State) (r : Request) (v : Verdict) : s.KeepsTables (s.settle r v) := by
  have drop : ∀ x : State, x.KeepsTables x.dropIngressHead := fun x => x.dropIngressHead_sheds.keeps.toKeepsTables
  have joined : ∀ q, s.KeepsTables (State.dropIngressHead { s with mgmtQueue := q }) := fun q =>
    have d := drop { s with mgmtQueue := q }
    ⟨d.ranges, d.windows, d.onTime⟩
  unfold State.settle
  split
  · exact (drop s).trans (State.refuseRequest_sheds _ _ _).keeps.toKeepsTables
  · split
    · exact joined _
    · exact ⟨fun h => h, fun h => h, fun h => h⟩
  · exact (drop s).trans (State.enqueueRequest_keeps _ _ _ _ _ _).1

/-- Carrying out a verdict that fits keeps the law of the queued requests, where the request is the head of the buffer. -/
theorem State.settle_requestLaw {s : State} {r : Request} {v : Verdict} (hr : s.ingress.head? = some r) (hv : v.Fits r)
    (hs : s.RequestLaw) : (s.settle r v).RequestLaw := by
  unfold State.settle
  split
  · exact (State.refuseRequest_sheds _ _ _).requestLaw (s.dropIngressHead_sheds.requestLaw hs)
  · obtain ⟨hwell, hal, hend⟩ := hv
    obtain ⟨hlen, hmgmt, hheld, hslot⟩ := hs
    split
    · rename_i hroom
      refine (State.dropIngressHead_sheds _).requestLaw ⟨?_, fun q hq => ?_, hheld, hslot⟩
      · simpa using hroom
      · rcases List.mem_append.1 hq with hq | hq
        · exact hmgmt q hq
        · rw [List.mem_singleton.1 hq]
          exact ⟨decide_eq_true ⟨hal, hend⟩, Request.fitsKind_of_wellFormed hwell⟩
    · refine ⟨hlen, hmgmt, fun _ => ?_, hslot⟩
      show (s.ingress.head?.any fun r => !r.malformed) = true
      rw [hr]
      simp [hwell]
  · exact (State.enqueueRequest_keeps _ _ _ _ _ _).2 hv (s.dropIngressHead_sheds.requestLaw hs)

/-- The retest of a held request, which is well formed where the law holds (R33). -/
theorem State.retestHeld_keeps (s : State) : s.KeepsLaws s.retestHeld := by
  have released : s.Sheds { s with held := false } :=
    ⟨rfl, rfl, fun _ hi => hi, .refl _, fun hh => (nomatch hh), fun _ => .refl _, fun _ _ _ _ he => .inl he⟩
  unfold State.retestHeld
  split
  · rename_i r rest hheld hing
    refine ⟨released.keeps.toKeepsTables.trans (State.settle_tables _ _ _), fun ha hs => ?_⟩
    have hwell : r.malformed = false := by simpa [hing] using hs.2.2.1 hheld
    exact State.settle_requestLaw (by rw [hing]; rfl) (State.route_fits ha hwell) (released.requestLaw hs)
  · exact (State.Sheds.refl s).keeps
  · exact (State.Sheds.refl s).keeps

theorem State.discardClash_sheds (s : State) : s.Sheds s.discardClash :=
  .after (State.raise_sheds _ _) <| .after (State.dropIngressHead_sheds _) <| .of_store rfl

theorem State.takeHead_keeps (s : State) : s.KeepsLaws s.takeHead := by
  unfold State.takeHead
  split
  · exact (State.Sheds.refl s).keeps
  · exact (State.Sheds.refl s).keeps
  · rename_i r rest hheld hing
    have head : s.ingress.head? = some r := by rw [hing]; rfl
    split
    · exact ⟨s.settle_tables r _, fun ha hs => State.settle_requestLaw head (State.classify_fits ha) hs⟩
    · rename_i k t hh
      have accepted : s.Sheds (s.accept t) := .of_store rfl
      split
      · split
        · exact s.discardClash_sheds.keeps
        · exact ⟨accepted.keeps.toKeepsTables.trans (State.settle_tables _ _ _), fun ha hs =>
            State.settle_requestLaw (s := s.accept t) head (State.classify_fits ha) (accepted.requestLaw hs)⟩
      · exact (State.Sheds.refl s).keeps

/-! ### Carrying out a management request (R202, R205, R206) -/

/-- A write that is not refused passes every test of R205 for every word it covers. -/
theorem State.judgeWrite_none {s : State} {r : MgmtRequest} (h : s.judgeWrite r = none) : ∀ x ∈ r.records,
    r.coversPart x = false ∧ s.badEntry r x = false ∧ s.refusedNow r x = false := by
  unfold State.judgeWrite at h
  dsimp only at h
  split at h; · exact nomatch h
  split at h; · exact nomatch h
  rename_i hpart
  split at h; · exact nomatch h
  rename_i hbad
  split at h; · exact nomatch h
  rename_i href
  intro x hx
  simp only [List.any_eq_true, not_exists, not_and, not_or, Bool.not_eq_true] at hpart hbad href
  exact ⟨hpart x hx, hbad.2 x hx, href x hx⟩

/-- The command that a word names, if it names one, takes effect. -/
theorem State.applyNamed_sheds {v s : State} (h : v.Sheds s) (c : Option Command) :
    v.Sheds ((c.map fun c => s.applyCommand c).getD s) := by
  cases c with
  | none => exact h
  | some c => exact h.trans (s.applyCommand_sheds c)

/-- A record applied, of a write judged in state v, leaves no request, no range and no unlawful window that v did not hold: the
pool of a branch changes only where v held no record of it (R94, R143, R206). -/
theorem State.applyRecord_sheds {v s : State} {r : MgmtRequest} {x : WordRecord} (h : v.Sheds s)
    (hbad : v.badEntry r x = false) (href : v.refusedNow r x = false) : v.Sheds (s.applyRecord r x) := by
  cases x with
  | unmapped => exact h
  | readOnly => exact h
  | interval => exact h.trans (.of_store rfl)
  | globalCommand => exact State.applyNamed_sheds h (r.command? .globalCommand)
  | branchCommand b => exact State.applyNamed_sheds h (r.command? (.branchCommand b))
  | window i j =>
    cases j with
    | succ j => exact h
    | zero =>
      refine { h with windows := fun k hk => ?_ }
      show ((s.windows.set i.val (r.windowFor i) i.isLt)[k.val]).lawful v.spanExp = true
      rw [Vector.getElem_set]
      split
      · simpa [State.badEntry] using hbad
      · exact h.windows k hk
  | config b j =>
    cases j with
    | succ j => exact h
    | zero =>
      have inRange : (r.configFor b).inRange = true := by simpa [State.badEntry] using hbad
      have pool : ((r.configFor b).poolBase = (v.br b).config.poolBase ∧
          (r.configFor b).poolExp = (v.br b).config.poolExp) ∨ ∀ p : Position, ((v.br b).records[p]).range? = none := by
        simp only [State.refusedNow, State.poolRefused, Bool.and_eq_false_iff, Bool.or_eq_false_iff, bne_eq_false_iff_eq] at href
        refine href.imp id fun hx p => ?_
        have hp := List.any_eq_false.1 hx.2 ((v.br b).records[p]) (by simp)
        have hp : (v.br b).records[p] = .vacant := by simpa using hp
        rw [hp]; rfl
      refine { h with branch := fun c => ?_ }
      show (v.br c).Sheds ((s.updBr b fun u => { u with config := r.configFor b }).br c)
      rw [State.updBr_eq, State.br_setBr_eq]
      split
      · rename_i e
        subst e
        have hb := h.branch c
        exact ⟨hb.queue, hb.range, pool.imp id fun none p => (hb.range p).elim id fun e => e.trans (none p), fun _ => inRange⟩
      · exact h.branch c

theorem State.applyRecords_sheds {v : State} {r : MgmtRequest} (xs : List WordRecord)
    (hx : ∀ x ∈ xs, v.badEntry r x = false ∧ v.refusedNow r x = false) {s : State} (h : v.Sheds s) :
    v.Sheds (xs.foldl (State.applyRecord r) s) := by
  induction xs generalizing s with
  | nil => exact h
  | cons x xs ih =>
    have ⟨hbad, href⟩ := hx x List.mem_cons_self
    exact ih (fun y hy => hx y (List.mem_cons_of_mem _ hy)) (State.applyRecord_sheds h hbad href)

theorem State.countWrite_sheds (s : State) (c : Option Command) : s.Sheds (s.countWrite c) := by
  unfold State.countWrite
  split <;> exact .of_store rfl

theorem State.carryOutWrite_sheds (s : State) (r : MgmtRequest) : s.Sheds (s.carryOutWrite r) := by
  unfold State.carryOutWrite
  split
  · exact .after (State.answer_sheds _ _ _) (.of_store rfl)
  · rename_i hj
    have applied := State.applyRecords_sheds r.records (fun x hx => (State.judgeWrite_none hj x hx).2) (.refl s)
    exact .after (State.answer_sheds _ _ _) <| .after (State.countWrite_sheds _ _) applied

theorem State.carryOut_sheds (s : State) (r : MgmtRequest) : s.Sheds (s.carryOut r) := by
  unfold State.carryOut
  split
  · exact .after (State.placeReply_sheds _ _ _ _ _) (.of_store rfl)
  · exact .after (State.placeReply_sheds _ _ _ _ _) (.of_store rfl)
  · exact s.carryOutWrite_sheds r
  · exact s.carryOutWrite_sheds r

theorem State.executeHead_keeps (s : State) (row : MgmtRow) : s.KeepsLaws (s.executeHead row) := by
  unfold State.executeHead
  split
  · exact (State.Sheds.refl s).keeps
  · rename_i r rest hq
    split
    · have popped : s.Sheds { s with mgmtQueue := rest } :=
        ⟨rfl, rfl, fun _ hi => hi, hq ▸ List.sublist_cons_self r rest, fun hh => ⟨hh, fun _ hr => hr⟩, fun _ => .refl _,
          fun _ _ _ _ he => .inl he⟩
      exact (popped.keeps.trans (fun a => a) (State.retestHeld_keeps _)).sheds (State.carryOut_sheds _ r)
    · exact (State.Sheds.refl s).keeps

end Sys2Proof.Machine

namespace Sys2Proof.Machine

open Sys2Proof

/-! ### Every command keeps the laws -/

/-- A power-on reset empties the queues, the window table, the records and the entries, whatever S it reads (R175). -/
theorem execPowerOnReset_keeps {s t : State} {span1 span0 : Bool} (h : execPowerOnReset span1 span0 s = .next t) :
    s.KeepsLaws t := by
  have wiped : s.Sheds s.linkReset.zeroCounters := .after (State.zeroCounters_sheds _) s.linkReset_sheds
  have started : s.Sheds _ := wiped.trans (State.mapBranches_sheds _
    (fun _ u => u.startPort s.linkReset.zeroCounters.now) fun _ _ => ⟨rfl, rfl, rfl⟩)
  have keeps := started.keeps
  obtain rfl := Host.Outcome.next.inj h
  refine ⟨⟨keeps.ranges, fun _ i => Window.lawful_of_invalid _ ?_, keeps.onTime⟩, keeps.requests⟩
  show ((mapTable (fun _ w => { w with hits := 0 }) (Vector.replicate 32 Window.cleared))[i.val]).valid = false
  simp [Window.cleared]

theorem execTrainingAttemptTimeout_keeps {s t : State} {p : Port} (h : execTrainingAttemptTimeout p s = .next t) :
    s.KeepsLaws t := by
  obtain rfl := Host.Outcome.next.inj h
  split
  · exact s.runOut_keeps _ _ fun x => x.updPort_sheds p _
  all_goals exact (State.Sheds.refl s).keeps

theorem execQuietRelistenTimeout_keeps {s t : State} {b : Branch} {still : Bool}
    (h : execQuietRelistenTimeout b still s = .next t) : s.KeepsLaws t := by
  obtain rfl := Host.Outcome.next.inj h
  split
  · refine s.runOut_keeps _ _ fun x => ?_
    have stopped : x.Sheds (x.updBr b fun u => { u with port := { u.port with relistenTimer := none } }) :=
      x.updBr_sheds_of_frame b _ fun _ => ⟨rfl, rfl, rfl⟩
    dsimp only
    split
    · exact .after (State.wakeByNeighbour_sheds _ b) stopped
    · exact stopped
  all_goals exact (State.Sheds.refl s).keeps

theorem execAgeDeadlineExpiry_keeps {s t : State} {b : Branch} (h : execAgeDeadlineExpiry b s = .next t) :
    s.KeepsLaws t := by
  obtain rfl := Host.Outcome.next.inj h
  split
  · exact (State.Sheds.refl s).keeps
  · exact s.runOut_keeps _ _ fun x => x.ageSlots_sheds b

theorem execReplyDeadlineExpiry_keeps {s t : State} {e : EntryIx} (h : execReplyDeadlineExpiry e s = .next t) :
    s.KeepsLaws t := by
  obtain rfl := Host.Outcome.next.inj h
  split
  · exact s.runOut_keeps _ _ fun x => x.replyTimedOut_sheds e _ _
  all_goals exact (State.Sheds.refl s).keeps

theorem execOrphanDeadlineExpiry_keeps {s t : State} {e : EntryIx} (h : execOrphanDeadlineExpiry e s = .next t) :
    s.KeepsLaws t := by
  obtain rfl := Host.Outcome.next.inj h
  split
  · exact s.runOut_keeps _ _ fun x => (x.freeEntry_sheds e).trans (.of_store rfl)
  all_goals exact (State.Sheds.refl s).keeps

theorem State.identifyTimeout_keeps (s : State) (b : Branch) : s.KeepsLaws (s.identifyTimeout b) := by
  unfold State.identifyTimeout
  split
  · exact s.runOut_keeps _ _ fun x => x.endEnumeration_sheds b _
  · exact s.runOut_keeps _ _ fun x => .after (State.endEnumeration_sheds _ b _) (x.setRecord_sheds b _ _ (.inl rfl))
  · exact (State.Sheds.refl s).keeps

theorem execWakeTimerExpiry_keeps {s t : State} {b : Branch} (h : execWakeTimerExpiry b s = .next t) : s.KeepsLaws t := by
  obtain rfl := Host.Outcome.next.inj h
  split
  · exact s.runOut_keeps _ _ fun x => x.wakeFails_sheds b
  all_goals exact (State.Sheds.refl s).keeps

theorem execRePresentTimerExpiry_keeps {s t : State} (h : execRePresentTimerExpiry s = .next t) : s.KeepsLaws t := by
  obtain rfl := Host.Outcome.next.inj h
  split
  · exact s.runOut_keeps _ _ fun x => .after (State.presentationDue_sheds _) (.of_store rfl)
  · exact (State.Sheds.refl s).keeps

/-- The frames that U sends, and those handed to it, are not what the laws look at. -/
theorem execUCreditSent_sheds {s t : State} (h : execUCreditSent s = .next t) : s.Sheds t := by
  obtain rfl := Host.Outcome.next.inj h
  split <;> exact .of_store rfl

/-- The base that an ASSIGN gives, and the presentation that was owed, are not what the laws look at. -/
theorem execUAssign_sheds {s t : State} {base : Word} (h : execUAssign base s = .next t) : s.Sheds t := by
  obtain rfl := Host.Outcome.next.inj h
  refine s.onU_sheds _ fun x => ?_
  dsimp only
  split
  · have handed : x.Sheds (State.handU (.assigned 0)
        { x with member := some base, upstream := { x.upstream with assigns := x.upstream.assigns + 1 } }) := .of_store rfl
    unfold State.makeOwed
    dsimp only
    split
    · exact .after (State.presentationDue_sheds _) (handed.trans (.of_store rfl))
    · exact handed.trans (.of_store rfl)
  · exact .of_store rfl

/-- A RELEASE of the part's own base retests the held request, which has then no route (R33, R169). -/
theorem execURelease_keeps {s t : State} {base : Word} (h : execURelease base s = .next t) : s.KeepsLaws t := by
  obtain rfl := Host.Outcome.next.inj h
  have good : s.Sheds s.goodFrameOnU := .of_store rfl
  unfold State.onU
  split
  · dsimp only
    split
    · have released : s.Sheds { s.goodFrameOnU with
          member := none, upstream := { s.upstream with releases := s.upstream.releases + 1 } } := .of_store rfl
      exact released.keeps.trans (fun _ _ hm => nomatch hm) (State.retestHeld_keeps _)
    · exact State.Sheds.keeps (.of_store rfl)
  · exact (State.Sheds.refl s).keeps

theorem execUHush_sheds {s t : State} (h : execUHush s = .next t) : s.Sheds t := by
  obtain rfl := Host.Outcome.next.inj h
  exact s.onU_sheds _ fun x => .after (State.signalWakeU_sheds _) (.of_store rfl)

theorem execUClear_sheds {s t : State} (h : execUClear s = .next t) : s.Sheds t := by
  obtain rfl := Host.Outcome.next.inj h
  exact s.onU_sheds _ fun x => .after (State.linkReset_sheds _) (.of_store rfl)

theorem execUnknownFrameDiscarded_sheds {s t : State} {p : Port} (h : execUnknownFrameDiscarded p s = .next t) :
    s.Sheds t := by
  cases p with
  | u =>
    obtain rfl := Host.Outcome.next.inj h
    exact s.onU_sheds _ fun x => .of_store rfl
  | branch b =>
    obtain rfl := Host.Outcome.next.inj h
    exact s.onBranch_sheds b _ fun x => x.discardOn_sheds b

theorem execLinkEntersUp_sheds {s t : State} {p : Port} (h : execLinkEntersUp p s = .next t) : s.Sheds t := by
  obtain rfl := Host.Outcome.next.inj h
  split
  · cases p with
    | u => exact .of_store rfl
    | branch b => exact s.branchEntersUp_sheds b
  · exact .refl s

theorem execWakeTaken_sheds {s t : State} {p : Port} (h : execWakeTaken p s = .next t) : s.Sheds t := by
  obtain rfl := Host.Outcome.next.inj h
  split
  · cases p with
    | u => exact .of_store rfl
    | branch b => exact s.wakeByNeighbour_sheds b
  · exact .refl s

theorem execCredit_sheds {s t : State} {b : Branch} {n : Byte} (h : execCredit b n s = .next t) : s.Sheds t := by
  obtain rfl := Host.Outcome.next.inj h
  split
  · exact .after (State.receiveCredit_sheds _ b n) (s.updBr_sheds_of_frame b _ fun _ => ⟨rfl, rfl, rfl⟩)
  · exact .refl s

/-- The frame at the head of a port's order leaves it. -/
theorem State.frameLeaves_sheds (s : State) (b : Branch) (rest : List BranchFrame) :
    s.Sheds (s.updBr b fun u => { u with unsent := rest }) :=
  s.updBr_sheds_of_frame b _ fun _ => ⟨rfl, rfl, rfl⟩

theorem execBranchClearSent_sheds {s t : State} {b : Branch} (h : execBranchClearSent b s = .next t) : s.Sheds t := by
  obtain rfl := Host.Outcome.next.inj h
  split
  · split
    · exact .after (State.clearSent_sheds _ b) (s.frameLeaves_sheds b _)
    · exact .refl s
  · split
    · exact .after (State.clearSent_sheds _ b) (s.frameLeaves_sheds b _)
    · exact .refl s
  · exact .refl s

theorem execHushSent_sheds {s t : State} {b : Branch} (h : execHushSent b s = .next t) : s.Sheds t := by
  obtain rfl := Host.Outcome.next.inj h
  split
  · split
    · exact .after (State.afterHush_sheds _ b) (s.frameLeaves_sheds b _)
    · exact .refl s
  · exact .refl s

theorem execBranchFrameSent_sheds {s t : State} {b : Branch} (h : execBranchFrameSent b s = .next t) : s.Sheds t := by
  obtain rfl := Host.Outcome.next.inj h
  have leaves : ∀ rest, s.Sheds (if (s.br b).port.link = .up then s.updBr b fun u => { u with unsent := rest } else s) :=
    fun rest => by
      split
      · exact s.frameLeaves_sheds b rest
      · exact .refl s
  cases (s.br b).unsent with
  | nil => exact .refl s
  | cons f rest =>
    cases f with
    | clear | resetClear | hush => exact .refl s
    | tagged | post | identify | assign | release => exact leaves rest

/-- A happening with one outcome. -/
theorem keeps_of_next {s x t : State} (h : (.next x : Host.Outcome State Fault Refusal) = .next t) (k : s.KeepsLaws x) :
    s.KeepsLaws t :=
  Host.Outcome.next.inj h ▸ k

/-- Every command keeps the laws. -/
theorem exec_keeps {c : Instr} {s t : State} (h : exec c s = .next t) : s.KeepsLaws t := by
  cases c with
  | powerOnReset => exact execPowerOnReset_keeps h
  | resetAsserted =>
    refine keeps_of_next h (State.Sheds.keeps ?_)
    exact (s.mapBranches_sheds (fun _ u => { u with port := u.port.goOff, credit := 0, unsent := [] })
      fun _ _ => ⟨rfl, rfl, rfl⟩).trans (.of_store rfl)
  | requestFrame =>
    exact keeps_of_next h (s.onFrame_sheds _ _ _ fun x => x.onU_sheds _ fun y => y.receiveRequest_sheds _).keeps
  | uCreditSent => exact (execUCreditSent_sheds h).keeps
  | classifierTake => exact keeps_of_next h s.takeHead_keeps
  | uIdentify => exact keeps_of_next h (State.Sheds.keeps (s.onU_sheds _ fun x => .of_store rfl))
  | uAssign => exact (execUAssign_sheds h).keeps
  | uRelease => exact execURelease_keeps h
  | uClear => exact (execUClear_sheds h).keeps
  | uHush => exact (execUHush_sheds h).keeps
  | uUnexpectedFrame => exact keeps_of_next h (State.Sheds.keeps (s.onU_sheds _ fun x => .of_store rfl))
  | uCreditReceived => exact keeps_of_next h (State.Sheds.keeps (s.onU_sheds _ fun x => .of_store rfl))
  | egressFrameSent => exact keeps_of_next h (State.Sheds.keeps (by split <;> exact .of_store rfl))
  | uMemberFrameSent => exact keeps_of_next h (State.Sheds.keeps (by split <;> exact .of_store rfl))
  | badFrame p => exact keeps_of_next h (s.receiveBad_sheds p).keeps
  | farEndTrains p => exact keeps_of_next h (s.departure_sheds p).keeps
  | lossOfSignal p => exact keeps_of_next h (s.departure_sheds p).keeps
  | unknownFrameDiscarded => exact (execUnknownFrameDiscarded_sheds h).keeps
  | branchAwayFrame b => exact keeps_of_next h (s.onBranch_sheds b _ fun x => x.discardOn_sheds b).keeps
  | trainingAttemptTimeout => exact execTrainingAttemptTimeout_keeps h
  | linkEntersUp => exact (execLinkEntersUp_sheds h).keeps
  | wakeTaken => exact (execWakeTaken_sheds h).keeps
  | quietRelistenTimeout => exact execQuietRelistenTimeout_keeps h
  | credit => exact (execCredit_sheds h).keeps
  | issue b => exact keeps_of_next h (s.issueHead_sheds b).keeps
  | ageDeadlineExpiry => exact execAgeDeadlineExpiry_keeps h
  | reply b =>
    exact keeps_of_next h
      (s.onFrame_sheds _ _ _ fun x => x.onBranch_sheds b _ fun y => y.takeReply_sheds b _ _ _ _).keeps
  | replyDeadlineExpiry => exact execReplyDeadlineExpiry_keeps h
  | orphanDeadlineExpiry => exact execOrphanDeadlineExpiry_keeps h
  | descriptor b =>
    refine keeps_of_next h ?_
    unfold State.onBranch
    split
    · have good : s.Sheds (s.goodFrameOn b) := s.updBr_sheds_of_frame b _ fun _ => ⟨rfl, rfl, rfl⟩
      exact good.keeps.trans (fun a => a) (State.takeDescriptor_keeps _ b _ _)
    · exact (State.Sheds.refl s).keeps
  | assigned b => exact keeps_of_next h (s.onBranch_sheds b _ fun x => x.takeAssigned_sheds b _).keeps
  | empty b => exact keeps_of_next h (s.onBranch_sheds b _ fun x => x.takeEmpty_sheds b).keeps
  | identifyTimerExpiry b => exact keeps_of_next h (s.identifyTimeout_keeps b)
  | chainbreak b => exact keeps_of_next h (s.onBranch_sheds b _ fun x => x.takeBreak_sheds b _).keeps
  | chainmend b => exact keeps_of_next h (s.onBranch_sheds b _ fun x => x.takeMend_sheds b).keeps
  | attention b => exact keeps_of_next h (s.onBranch_sheds b _ fun x => x.takeAttention_sheds b _ _).keeps
  | branchClearSent => exact (execBranchClearSent_sheds h).keeps
  | hushSent => exact (execHushSent_sheds h).keeps
  | branchFrameSent => exact (execBranchFrameSent_sheds h).keeps
  | drainComplete b => exact keeps_of_next h (s.judgeDrain_sheds b).keeps
  | wakeTimerExpiry => exact execWakeTimerExpiry_keeps h
  | rePresentTimerExpiry => exact execRePresentTimerExpiry_keeps h
  | managementRead | managementWrite | windowEntryWrite | configurationWrite | rePresentIntervalWrite | managementSwap
  | enumerate | release | branchReset | dormant | wake | noticeAck | clearCounters =>
    exact keeps_of_next h (s.executeHead_keeps _)

/-! ### Every step keeps the laws -/

/-- The earliest timer runs out no later than any. -/
theorem earliestTimer_le (l : List (Time × Instr)) (x : Time × Instr) (hx : x ∈ l) :
    ∃ y, earliestTimer l = some y ∧ y.1 ≤ x.1 := by
  induction l with
  | nil => exact nomatch hx
  | cons a l ih =>
    unfold earliestTimer
    cases he : earliestTimer l with
    | none =>
      rcases List.mem_cons.1 hx with rfl | hx
      · exact ⟨x, rfl, le_refl _⟩
      · obtain ⟨y, hy, -⟩ := ih hx
        exact nomatch he.symm.trans hy
    | some y =>
      have bound : x = a ∨ y.1 ≤ x.1 := (List.mem_cons.1 hx).imp id fun hx => by
        obtain ⟨z, hz, hle⟩ := ih hx
        rw [he] at hz
        exact Option.some.inj hz ▸ hle
      dsimp only
      split
      · rename_i hlt
        exact ⟨y, rfl, bound.elim (fun e => e ▸ Nat.le_of_lt hlt) id⟩
      · rename_i hge
        exact ⟨a, rfl, bound.elim (fun e => e ▸ le_refl _) fun h => (Nat.not_lt.1 hge).trans h⟩

/-- With no timer due, every timer that runs has time left. -/
theorem State.timers_of_noneDue {s : State} (h : s.dueCommand = none) (x : Time × Instr) (hx : x ∈ s.timers) :
    s.now < x.1 := by
  obtain ⟨y, hy, hle⟩ := earliestTimer_le s.timers x hx
  unfold State.dueCommand at h
  rw [hy] at h
  dsimp only at h
  split at h
  · exact nomatch h
  · rename_i hlate
    exact (Nat.not_le.1 hlate).trans_le hle

/-- The earliest age deadline of each queue is a timer, and so is the reply deadline of each WAITING entry. -/
theorem State.ageDeadline_mem_timers {s : State} {b : Branch} {d : Time} (h : earliestDeadline (s.br b).queue = some d) :
    (d, .ageDeadlineExpiry b) ∈ s.timers := by
  simp only [State.timers, List.mem_append, List.mem_flatMap]
  refine .inl (.inl (.inl ⟨b, List.mem_finRange b, ?_⟩))
  simp [BranchUnit.timers, h]

theorem State.replyDeadline_mem_timers {s : State} {e : EntryIx} {c : Carried} {ut : UTag} {d : Time}
    (h : s.entry e = .waiting c ut d) : (d, .replyDeadlineExpiry e) ∈ s.timers := by
  simp only [State.timers, List.mem_append, List.mem_flatMap]
  refine .inl (.inl (.inr ⟨e, List.mem_finRange e, ?_⟩))
  simp [PendingEntry.timers, h]

/-- Each queued slot's deadline is no earlier than the earliest of its queue. -/
theorem earliestDeadline_le {l : List Slot} {q : Slot} (hq : q ∈ l) : ∃ d, earliestDeadline l = some d ∧ d ≤ q.ageDeadline := by
  cases h : earliestDeadline l with
  | some d => exact ⟨d, rfl, ((earliestDeadline_some l d).1 h).2 q hq⟩
  | none =>
    cases l with
    | nil => exact nomatch hq
    | cons a l =>
      unfold earliestDeadline at h
      cases hl : earliestDeadline l <;> rw [hl] at h <;> exact nomatch h

/-- One microsecond passes while no timer is due (R216; assumption 1). -/
theorem State.tick_keeps {s : State} (h : s.dueCommand = none) : s.KeepsLaws { s with now := s.now + 1 } where
  ranges hs := hs
  windows hs := hs
  requests _ hs := hs
  onTime _ := by
    refine ⟨fun b q hq => ?_, fun e c ut d he => ?_⟩
    · obtain ⟨d, hd, hle⟩ := earliestDeadline_le hq
      exact (State.timers_of_noneDue h _ (State.ageDeadline_mem_timers hd)).trans_le hle
    · exact State.timers_of_noneDue h _ (State.replyDeadline_mem_timers he)

/-- Every step keeps the laws of the ranges, of the windows and of the deadlines and, where the part's base is aligned, that of
the queued requests. -/
theorem step_keeps {s t : State} (h : step s = .next t) : s.KeepsLaws t := by
  unfold step at h
  split at h
  · unfold State.idle at h
    split at h
    · exact exec_keeps h
    · rename_i hd
      exact keeps_of_next h (State.tick_keeps hd)
  · have k := exec_keeps h
    exact ⟨⟨k.ranges, k.windows, k.onTime⟩, k.requests⟩

/-- Settles O58: the range law and the window law are two of the laws that every step keeps. -/
theorem stepKeepsRangeAndWindowLaws : Obligations.StepKeepsRangeAndWindowLaws :=
  fun _ _ h => ⟨(step_keeps h).ranges, (step_keeps h).windows⟩

/-- Settles O60: so are the law of the queued requests, on a lawful upstream side, and that of the deadlines. -/
theorem stepKeepsRequestLaw : Obligations.StepKeepsRequestLaw :=
  fun _ _ h => ⟨fun hu => (step_keeps h).requests hu.memberAligned, (step_keeps h).onTime⟩

end Sys2Proof.Machine

namespace Sys2Proof.Machine

open Sys2Proof

/-! ### The words that a write covers (R203) -/

/-- A write covers the words from its offset on. -/
theorem MgmtRequest.mem_records (r : MgmtRequest) (x : WordRecord) :
    x ∈ r.records ↔ ∃ i, i < r.count ∧ wordRecord (r.offset + 4 * i) = x := by
  simp [MgmtRequest.records]

theorem MgmtRequest.records_any (r : MgmtRequest) (p : WordRecord → Bool) :
    r.records.any p = true ↔ ∃ i, i < r.count ∧ p (wordRecord (r.offset + 4 * i)) = true := by
  simp [MgmtRequest.records]

/-- Behind every command word stands a read-only word (R203). -/
theorem wordRecord_after_command {o : Nat} (h : (wordRecord o).isCommand = true) : wordRecord (o + 4) = .readOnly := by
  have place : o / 4 = 6 ∨ (0x040 ≤ o ∧ o < 0x100 ∧ (o - 0x040) % 48 / 4 = 5) := by
    unfold wordRecord at h
    dsimp only at h
    split_ifs at h <;> simp only [WordRecord.isCommand, Bool.false_eq_true] at h <;> omega
  unfold wordRecord
  dsimp only
  rcases place with hg | ⟨hlo, hhi, hb⟩
  · rw [if_pos (by omega), if_neg (by omega), if_neg (by omega), if_neg (by omega)]
  · rw [if_neg (by omega), if_pos (by omega), if_neg (by omega), if_neg (by omega), if_neg (by omega)]

/-- A write that covers no read-only word covers at most one command word (R203, R205). -/
theorem countP_isCommand_le_one (n o : Nat) (h : ∀ i, i < n → wordRecord (o + 4 * i) ≠ .readOnly) :
    ((List.range n).map fun i => wordRecord (o + 4 * i)).countP WordRecord.isCommand ≤ 1 := by
  induction n generalizing o with
  | zero => simp
  | succ n ih =>
    have shift : ((List.range (n + 1)).map fun i => wordRecord (o + 4 * i)) =
        wordRecord o :: (List.range n).map fun i => wordRecord (o + 4 + 4 * i) := by
      rw [List.range_succ_eq_map, List.map_cons, List.map_map]
      congr 1
      exact List.map_congr_left fun i _ => congrArg wordRecord (by simp only [Nat.succ_eq_add_one]; omega)
    rw [shift]
    by_cases hc : (wordRecord o).isCommand = true
    · have hn : n = 0 := by
        by_contra hn
        exact h 1 (by omega) (wordRecord_after_command hc)
      subst hn
      simp [hc]
    · rw [List.countP_cons_of_neg hc]
      exact ih (o + 4) fun i hi => by
        have := h (i + 1) (by omega)
        rwa [show o + 4 * (i + 1) = o + 4 + 4 * i by omega] at this

/-! ### The tests of a write, word by word (R205) -/

/-- The word's record is covered in part (step 2 of R205). -/
theorem MgmtRequest.coversPart_iff (r : MgmtRequest) (x : WordRecord) : r.coversPart x = true ↔
    (∃ w j, x = .window w j ∧ ¬(r.offset ≤ windowOffset w ∧ windowOffset w + 16 ≤ r.offset + 4 * r.count)) ∨
      ∃ b j, x = .config b j ∧ ¬(r.offset ≤ configOffset b ∧ configOffset b + 12 ≤ r.offset + 4 * r.count) := by
  cases x <;> simp [MgmtRequest.coversPart, MgmtRequest.coversWords, imp_iff_not_or]

/-- A window entry is unlawful where it is valid and fails a condition of R6. -/
theorem Window.lawful_eq_false (w : Window) (span : Nat) : w.lawful span = false ↔ w.valid = true ∧
    ∃ k, k = w.sizeExp.toNat ∧ ¬(8 ≤ k ∧ k ≤ 28 ∧ k ≤ span ∧ w.offset.toNat % 2 ^ k = 0 ∧ w.target.toNat % 2 ^ k = 0 ∧
      w.offset.toNat + 2 ^ k ≤ 2 ^ span ∧ 4096 ≤ w.offset.toNat) := by
  unfold Window.lawful Config.managementBytes
  rw [Bool.or_eq_false_iff, Bool.not_eq_false', decide_eq_false_iff_not]
  exact and_congr_right fun _ => ⟨fun h => ⟨_, rfl, h⟩, fun ⟨_, rfl, h⟩ => h⟩

/-- The two times of a configuration record are 16 bits each (R212), so only their lower bounds can fail (R142). -/
theorem MgmtRequest.configFor_inRange (r : MgmtRequest) (b : Branch) : (r.configFor b).inRange = false ↔
    ∃ c : BranchConfig, c = r.configFor b ∧
      ¬(12 ≤ c.poolExp ∧ c.poolExp ≤ 31 ∧ c.poolBase.toNat % 2 ^ c.poolExp = 0 ∧ 1 ≤ c.limit ∧ c.limit ≤ 16 ∧
        1 ≤ c.replyTimeout ∧ 1 ≤ c.orphanHold) := by
  have bits : ∀ (w : Word) (lo : Nat), bitsOf w (lo + 15) lo ≤ 65535 := fun w lo => by
    have : lo + 15 - lo + 1 = 16 := by omega
    rw [bitsOf, this]
    omega
  have reply : (r.configFor b).replyTimeout ≤ 65535 := bits _ 0
  have hold : (r.configFor b).orphanHold ≤ 65535 := bits _ 16
  unfold BranchConfig.inRange
  rw [decide_eq_false_iff_not]
  constructor
  · exact fun h => ⟨_, rfl, fun ⟨h1, h2, h3, h4, h5, h6, h7⟩ => h ⟨h1, h2, h3, h4, h5, h6, reply, h7, hold⟩⟩
  · rintro ⟨_, rfl, h⟩ ⟨h1, h2, h3, h4, h5, h6, -, h7, -⟩
    exact h ⟨h1, h2, h3, h4, h5, h6, h7⟩

/-- The code of a command word (R212). -/
theorem bitsOf_code (w : Word) : bitsOf w 3 0 = w.toNat % 16 := by
  simp [bitsOf]

/-- A global command word names no command by its code, or by a NOTICE-ACK source above 32 (R208, R212). -/
theorem globalCommand_none (w : Word) : globalCommand w = none ↔ ∃ code, code = w.toNat % 16 ∧
    (code = 0 ∨ 2 < code ∨ (code = 1 ∧ 32 < w.toNat / 16 % 64)) := by
  have source : Source.ofNumber (bitsOf w 9 4) = none ↔ 32 < w.toNat / 16 % 64 := by
    have : bitsOf w 9 4 = w.toNat / 16 % 64 := rfl
    rw [this]
    unfold Source.ofNumber
    split_ifs <;> simp <;> omega
  rw [exists_eq_left]
  unfold globalCommand
  rw [bitsOf_code]
  split
  · rename_i h; rw [Option.map_eq_none_iff, source, h]; simp
  · rename_i h; simp [h]
  · rename_i h1 h2
    simp only [imp_false] at h1 h2
    exact ⟨fun _ => by omega, fun _ => rfl⟩

/-- A branch command word names no command by its code (R208, R212). -/
theorem branchCommand_none (b : Branch) (w : Word) : branchCommand b w = none ↔ ∃ code, code = w.toNat % 16 ∧
    (code = 0 ∨ 5 < code) := by
  rw [exists_eq_left]
  unfold branchCommand
  rw [bitsOf_code]
  split
  case h_6 h1 h2 h3 h4 h5 =>
    simp only [imp_false] at h1 h2 h3 h4 h5
    exact ⟨fun _ => by omega, fun _ => rfl⟩
  all_goals
    rename_i h
    simp [h]

/-- What the write carries for the word's record fails its validation (step 3 of R205). -/
theorem State.badEntry_iff (s : State) (r : MgmtRequest) (x : WordRecord) : s.badEntry r x = true ↔
    (∃ w j, x = .window w j ∧ ∃ e : Window, e = r.windowFor w ∧ e.valid = true ∧
        ∃ k, k = e.sizeExp.toNat ∧ ¬(8 ≤ k ∧ k ≤ 28 ∧ k ≤ s.spanExp ∧ e.offset.toNat % 2 ^ k = 0 ∧
          e.target.toNat % 2 ^ k = 0 ∧ e.offset.toNat + 2 ^ k ≤ 2 ^ s.spanExp ∧ 4096 ≤ e.offset.toNat)) ∨
      (∃ b j, x = .config b j ∧ ∃ c : BranchConfig, c = r.configFor b ∧
        ¬(12 ≤ c.poolExp ∧ c.poolExp ≤ 31 ∧ c.poolBase.toNat % 2 ^ c.poolExp = 0 ∧ 1 ≤ c.limit ∧ c.limit ≤ 16 ∧
          1 ≤ c.replyTimeout ∧ 1 ≤ c.orphanHold)) ∨
      (x = .interval ∧ 255 < (r.wordAt 0x014).toNat) ∨
      (x = .globalCommand ∧ ∃ code, code = (r.wordAt 0x018).toNat % 16 ∧
        (code = 0 ∨ 2 < code ∨ (code = 1 ∧ 32 < (r.wordAt 0x018).toNat / 16 % 64))) ∨
      ∃ b, x = .branchCommand b ∧ ∃ code, code = (r.wordAt (0x054 + 48 * b.val)).toNat % 16 ∧
        (code = 0 ∨ 5 < code) := by
  cases x with
  | unmapped => simp [State.badEntry]
  | readOnly => simp [State.badEntry]
  | window w j =>
    have bad : s.badEntry r (.window w j) = true ↔ (r.windowFor w).lawful s.spanExp = false := by simp [State.badEntry]
    rw [bad, Window.lawful_eq_false]
    refine ⟨fun h => .inl ⟨w, j, rfl, _, rfl, h⟩, ?_⟩
    rintro (⟨w, j, e, _, rfl, h⟩ | ⟨_, _, e, -⟩ | ⟨e, -⟩ | ⟨e, -⟩ | ⟨_, e, -⟩)
    · injection e with e _
      exact e ▸ h
    all_goals exact nomatch e
  | config b j =>
    have bad : s.badEntry r (.config b j) = true ↔ (r.configFor b).inRange = false := by simp [State.badEntry]
    rw [bad, MgmtRequest.configFor_inRange]
    refine ⟨fun h => .inr (.inl ⟨b, j, rfl, h⟩), ?_⟩
    rintro (⟨_, _, e, -⟩ | ⟨b, j, e, h⟩ | ⟨e, -⟩ | ⟨e, -⟩ | ⟨_, e, -⟩)
    · exact nomatch e
    · injection e with e _
      exact e ▸ h
    all_goals exact nomatch e
  | interval =>
    have bad : s.badEntry r .interval = true ↔ 255 < (r.wordAt 0x014).toNat := decide_eq_true_iff
    rw [bad]
    simp only [reduceCtorEq, false_and, exists_const, false_or, or_false, true_and]
  | globalCommand =>
    have bad : s.badEntry r .globalCommand = true ↔ globalCommand (r.wordAt 0x018) = none := Option.isNone_iff_eq_none
    rw [bad, globalCommand_none]
    simp only [reduceCtorEq, false_and, exists_const, false_or, or_false, true_and]
  | branchCommand b =>
    have bad : s.badEntry r (.branchCommand b) = true ↔ branchCommand b (r.wordAt (0x054 + 48 * b.val)) = none :=
      Option.isNone_iff_eq_none
    rw [bad, branchCommand_none]
    simp only [reduceCtorEq, false_and, exists_const, false_or, WordRecord.branchCommand.injEq,
      exists_eq_left']

/-- The present state does not allow what the write carries for the word's record (step 4 of R205). -/
theorem State.refusedNow_iff (s : State) (r : MgmtRequest) (x : WordRecord) : s.refusedNow r x = true ↔
    (∃ b j, x = .config b j ∧ ∃ c : BranchConfig, c = r.configFor b ∧
        (c.poolBase ≠ (s.br b).config.poolBase ∨ c.poolExp ≠ (s.br b).config.poolExp) ∧
        ((s.br b).enumeration ≠ .idle ∨ ∃ p : Position, s.record b p ≠ .vacant)) ∨
      ∃ c, r.command? x = some c ∧ s.commandAccepted c = false := by
  have turned : ∀ o : Option Command, (!(o.all s.commandAccepted)) = true ↔ ∃ c, o = some c ∧ s.commandAccepted c = false :=
    fun o => by cases o <;> simp
  have inUse : ∀ b, (s.br b).records.toList.any (· != .vacant) = true ↔ ∃ p : Position, s.record b p ≠ .vacant := fun b => by
    rw [List.any_eq_true]
    constructor
    · rintro ⟨x, hx, hne⟩
      obtain ⟨i, hi, rfl⟩ := Vector.mem_iff_getElem.1 (Vector.mem_toList_iff.1 hx)
      exact ⟨⟨i, hi⟩, bne_iff_ne.1 hne⟩
    · rintro ⟨p, hp⟩
      exact ⟨s.record b p, by simp [State.record], by simpa using hp⟩
  cases x with
  | unmapped | readOnly | window | interval => simp [State.refusedNow, MgmtRequest.command?]
  | globalCommand =>
    refine (turned _).trans ⟨.inr, ?_⟩
    rintro (⟨_, _, e, -⟩ | h)
    · exact nomatch e
    · exact h
  | branchCommand b =>
    refine (turned _).trans ⟨.inr, ?_⟩
    rintro (⟨_, _, e, -⟩ | h)
    · exact nomatch e
    · exact h
  | config b j =>
    have pool : s.refusedNow r (.config b j) = true ↔
        ((r.configFor b).poolBase ≠ (s.br b).config.poolBase ∨ (r.configFor b).poolExp ≠ (s.br b).config.poolExp) ∧
          ((s.br b).enumeration ≠ .idle ∨ ∃ p : Position, s.record b p ≠ .vacant) := by
      simp only [State.refusedNow, State.poolRefused, Bool.and_eq_true, Bool.or_eq_true, bne_iff_ne, inUse,
        BranchUnit.enumerating]
    rw [pool]
    refine ⟨fun h => .inl ⟨b, j, rfl, _, rfl, h⟩, ?_⟩
    rintro (⟨b, j, e, _, rfl, h⟩ | ⟨c, e, -⟩)
    · injection e with e _
      exact e ▸ h
    · exact nomatch e

/-! ### The judgement in order (R205) -/

theorem State.judgeWrite_readonly {s : State} {r : MgmtRequest} (h : .readOnly ∈ r.records) :
    s.judgeWrite r = some .readonly :=
  if_pos (List.contains_iff_mem.2 h)

/-- Without a read-only word, the further tests decide, in order; the count of command words never does. -/
theorem State.judgeWrite_eq {s : State} {r : MgmtRequest} (h : .readOnly ∉ r.records) : s.judgeWrite r =
    if r.records.any r.coversPart then some .partialWrite
    else if r.records.any (s.badEntry r) then some .badentry
    else if r.records.any (s.refusedNow r) then some .refused
    else none := by
  have one : r.records.countP WordRecord.isCommand ≤ 1 := countP_isCommand_le_one r.count r.offset fun i hi e =>
    h ((r.mem_records _).2 ⟨i, hi, e⟩)
  unfold State.judgeWrite
  dsimp only
  rw [if_neg (fun hc => h (List.contains_iff_mem.1 hc))]
  simp only [Nat.not_le.2 (Nat.lt_succ_of_le one), false_or]

/-! ### What the head's leaving keeps -/

theorem State.settle_spanExp (s : State) (r : Request) (v : Verdict) : (s.settle r v).spanExp = s.spanExp := by
  unfold State.settle
  split
  · unfold State.refuseRequest
    dsimp only
    split
    · exact State.placeReply_spanExp _ _ _ _ _
    · rfl
  · split <;> rfl
  · rw [State.enqueueRequest_eq]
    dsimp only
    split
    · rw [State.enterWaking_eq]; rfl
    · rfl

/-- The head's leaving keeps S (R200). -/
@[simp] theorem State.afterHeadLeaves_spanExp (s : State) : s.afterHeadLeaves.spanExp = s.spanExp := by
  unfold State.afterHeadLeaves State.retestHeld
  split
  · exact State.settle_spanExp _ _ _
  · rfl
  · rfl

/-! ### A write whose words belong to nothing -/

/-- Its row is MANAGEMENT_WRITE. -/
theorem MgmtRequest.writeRow_unmapped {r : MgmtRequest} (h : ∀ x ∈ r.records, x = .unmapped) : r.writeRow = .write := by
  have none : r.records.filterMap r.commandRow? = [] := by
    rw [List.filterMap_eq_nil_iff]
    intro x hx; rw [h x hx]; rfl
  have config : r.records.any WordRecord.isConfig = false := by
    rw [List.any_eq_false]
    intro x hx; rw [h x hx]; decide
  have window : r.records.any WordRecord.isWindow = false := by
    rw [List.any_eq_false]
    intro x hx; rw [h x hx]; decide
  have interval : .interval ∉ r.records := fun hx => nomatch h _ hx
  simp [MgmtRequest.writeRow, none, config, window, interval]

/-- It is applied without effect, and counted. -/
theorem State.carryOutWrite_unmapped {s : State} {r : MgmtRequest} (h : ∀ x ∈ r.records, x = .unmapped) :
    s.carryOutWrite r = State.answer r.hdr .ok { s with mgmt := { s.mgmt with writes := s.mgmt.writes + 1 } } := by
  have quiet : ∀ p : WordRecord → Bool, p .unmapped = false → r.records.any p = false := fun p hp => by
    rw [List.any_eq_false]
    intro x hx; rw [h x hx, hp]; decide
  have judged : s.judgeWrite r = none := by
    have part := quiet r.coversPart rfl
    have bad := quiet (s.badEntry r) rfl
    have refused := quiet (s.refusedNow r) rfl
    rw [State.judgeWrite_eq fun hx => nomatch h _ hx]
    simp only [part, bad, refused, Bool.false_eq_true, if_false]
  have noCommand : r.records.findSome? r.command? = none := by
    rw [List.findSome?_eq_none_iff]
    intro x hx; rw [h x hx]; rfl
  have same : r.records.foldl (State.applyRecord r) s = s := by
    have hrep : r.records = List.replicate r.records.length .unmapped := List.eq_replicate_iff.2 ⟨rfl, h⟩
    rw [hrep]
    induction r.records.length with
    | zero => rfl
    | succ n ih => exact ih
  unfold State.carryOutWrite
  rw [judged]
  dsimp only
  rw [noCommand, same]
  rfl

/-- Settles O46: the tests of R205 decide in their order, and between two command words stands a read-only one. -/
theorem writeIsJudgedInOrder : Obligations.WriteIsJudgedInOrder := by
  intro s r hhead hwrite v hv word hword part hpart bad hbad refused hrefused
  have spanExp : v.spanExp = s.spanExp := by rw [hv, State.afterHeadLeaves_spanExp]
  have run : ∀ st, v.judgeWrite r = some st → exec r.row.command s = .next (v.writeRefused r.hdr st) := fun st hj => by
    rw [exec_write hhead hwrite, ← hv, State.carryOutWrite_refused hj]
  subst hword
  have part_iff : part ↔ r.records.any r.coversPart = true := by
    rw [hpart, MgmtRequest.records_any]
    exact exists_congr fun i => and_congr_right fun _ => (r.coversPart_iff _).symm
  have bad_iff : bad ↔ r.records.any (v.badEntry r) = true := by
    rw [hbad, MgmtRequest.records_any, ← spanExp]
    exact exists_congr fun i => and_congr_right fun _ => (v.badEntry_iff r _).symm
  have refused_iff : refused ↔ r.records.any (v.refusedNow r) = true := by
    rw [hrefused, MgmtRequest.records_any]
    exact exists_congr fun i => and_congr_right fun _ => (v.refusedNow_iff r _).symm
  have readOnly : (∃ i, i < r.count ∧ wordRecord (r.offset + 4 * i) = .readOnly) →
      exec r.row.command s = .next (v.writeRefused r.hdr .readonly) := fun h =>
    run _ (State.judgeWrite_readonly ((r.mem_records _).2 h))
  have judged : (∀ i, i < r.count → wordRecord (r.offset + 4 * i) ≠ .readOnly) → v.judgeWrite r =
      if r.records.any r.coversPart then some .partialWrite
      else if r.records.any (v.badEntry r) then some .badentry
      else if r.records.any (v.refusedNow r) then some .refused
      else none := fun h => State.judgeWrite_eq fun hx =>
    have ⟨i, hi, e⟩ := (r.mem_records _).1 hx
    h i hi e
  refine ⟨readOnly, ?_, fun h hp => ?_, fun h hp hb => ?_, fun h hp hb hr => ?_, fun h => ?_⟩
  · rintro ⟨i, j, hij, hj, hi, hcj⟩
    have behind := wordRecord_after_command hi
    have next : i + 1 ≠ j := by
      rintro rfl
      have hcj : (wordRecord (r.offset + 4 * i + 4)).isCommand = true := hcj
      rw [behind] at hcj
      exact nomatch hcj
    exact readOnly ⟨i + 1, by omega, by rw [← behind]; congr 1⟩
  · exact run _ ((judged h).trans (if_pos (part_iff.1 hp)))
  · exact run _ ((judged h).trans ((if_neg (mt part_iff.2 hp)).trans (if_pos (bad_iff.1 hb))))
  · exact run _ ((judged h).trans ((if_neg (mt part_iff.2 hp)).trans ((if_neg (mt bad_iff.2 hb)).trans
      (if_pos (refused_iff.1 hr)))))
  · have all : ∀ x ∈ r.records, x = .unmapped := fun x hx => by
      obtain ⟨i, hi, e⟩ := (r.mem_records x).1 hx
      exact e ▸ h i hi
    have row : r.row.command = .managementWrite := by
      rw [MgmtRequest.row_write r hwrite, MgmtRequest.writeRow_unmapped all]; rfl
    rw [← row, exec_write hhead hwrite, ← hv, State.carryOutWrite_unmapped all]

end Sys2Proof.Machine

namespace Sys2Proof.Machine

open Sys2Proof

/-! ### A write of window entries (R8, R206) -/

/-- A write of window words alone is the row WINDOW_ENTRY_WRITE. -/
theorem MgmtRequest.writeRow_windows {r : MgmtRequest} (hne : r.records ≠ []) (h : ∀ x ∈ r.records, x.isWindow = true) :
    r.writeRow = .windowEntry := by
  have windowWord : ∀ x ∈ r.records, ∃ i j, x = .window i j := fun x hx => by
    have hx := h x hx
    cases x with
    | window i j => exact ⟨i, j, rfl⟩
    | unmapped | readOnly | config | interval | globalCommand | branchCommand => exact nomatch hx
  have none : r.records.filterMap r.commandRow? = [] := by
    rw [List.filterMap_eq_nil_iff]
    intro x hx
    obtain ⟨i, j, rfl⟩ := windowWord x hx
    rfl
  have config : r.records.any WordRecord.isConfig = false := by
    rw [List.any_eq_false]
    intro x hx
    obtain ⟨i, j, rfl⟩ := windowWord x hx
    exact Bool.false_ne_true
  have window : r.records.any WordRecord.isWindow = true := by
    obtain ⟨x, hx⟩ := List.exists_mem_of_ne_nil _ hne
    exact List.any_eq_true.2 ⟨x, hx, h x hx⟩
  simp [MgmtRequest.writeRow, none, config, window]

/-- Window words applied change the window table alone, at the entries whose first words are among them. -/
theorem State.applyRecords_windows (r : MgmtRequest) (xs : List WordRecord) (h : ∀ x ∈ xs, x.isWindow = true) (s : State) :
    ∃ ws : Vector Window 32, xs.foldl (State.applyRecord r) s = { s with windows := ws } ∧
      ∀ j : WindowIx, ws[j] = if .window j 0 ∈ xs then r.windowFor j else s.windows[j] := by
  induction xs generalizing s with
  | nil => exact ⟨s.windows, rfl, fun j => by simp⟩
  | cons x xs ih =>
    have hxs : ∀ y ∈ xs, y.isWindow = true := fun y hy => h y (List.mem_cons_of_mem _ hy)
    have hx := h x List.mem_cons_self
    cases x with
    | window i k =>
      cases k with
      | succ k =>
        obtain ⟨ws, hws, hj⟩ := ih hxs s
        exact ⟨ws, hws, fun j => by simp [hj]⟩
      | zero =>
        obtain ⟨ws, hws, hj⟩ := ih hxs { s with windows := s.windows.set i.val (r.windowFor i) i.isLt }
        refine ⟨ws, hws, fun j => ?_⟩
        rw [hj]
        by_cases hm : .window j 0 ∈ xs
        · rw [if_pos hm, if_pos (List.mem_cons_of_mem _ hm)]
        · rw [if_neg hm]
          show (s.windows.set i.val (r.windowFor i) i.isLt)[j.val] = _
          rw [Vector.getElem_set]
          by_cases hij : i = j
          · subst hij
            simp
          · have hv : i.val ≠ j.val := fun e => hij (Fin.ext e)
            have hm' : .window j 0 ∉ .window i 0 :: xs := by
              simp [hm, Ne.symm hij]
            rw [if_neg hv, if_neg hm']
            rfl
    | unmapped | readOnly | config | interval | globalCommand | branchCommand => exact nomatch hx

/-- A write of window words alone, none of an entry covered in part, is refused only as BADENTRY. -/
theorem State.judgeWrite_windows {s : State} {r : MgmtRequest} (h : ∀ x ∈ r.records, x.isWindow = true)
    (hw : r.records.any r.coversPart = false) :
    s.judgeWrite r = if r.records.any (s.badEntry r) then some .badentry else none := by
  have refused : r.records.any (s.refusedNow r) = false := by
    rw [List.any_eq_false]
    intro x hx
    have := h x hx
    cases x with
    | window => simp [State.refusedNow]
    | unmapped | readOnly | config | interval | globalCommand | branchCommand => exact nomatch this
  rw [State.judgeWrite_eq (fun hx => nomatch h _ hx), hw, refused]
  rfl

/-- A write of n whole window entries from entry i on. -/
def entryWrite (h : ReqHeader) (i : WindowIx) (data : List Word) : MgmtRequest :=
  { hdr := h, offset := 0x100 + 16 * i.val, count := data.length, data := data }

section
variable {h : ReqHeader} {i : WindowIx} {n : Nat} {data : List Word}

/-- Word k of such a write is word k mod 4 of entry i + k / 4 (R203). -/
theorem entryWrite_mem_records (hn : i.val + n ≤ 32) (hl : data.length = 4 * n) (x : WordRecord) :
    x ∈ (entryWrite h i data).records ↔
      ∃ w : WindowIx, ∃ j : Nat, i.val ≤ w.val ∧ w.val < i.val + n ∧ j < 4 ∧ x = .window w j := by
  rw [MgmtRequest.mem_records]
  show (∃ k, k < data.length ∧ wordRecord (0x100 + 16 * i.val + 4 * k) = x) ↔ _
  constructor
  · rintro ⟨k, hk, rfl⟩
    have place := wordRecord_window ⟨i.val + k / 4, by omega⟩ ⟨k % 4, by omega⟩
    have offset : 0x100 + 16 * (i.val + k / 4) + 4 * (k % 4) = 0x100 + 16 * i.val + 4 * k := by omega
    rw [← offset]
    exact ⟨⟨i.val + k / 4, by omega⟩, k % 4, Nat.le_add_right _ _, by show i.val + k / 4 < i.val + n; omega, by omega, place⟩
  · rintro ⟨w, j, hlo, hhi, hj, rfl⟩
    refine ⟨4 * (w.val - i.val) + j, by omega, ?_⟩
    have offset : 0x100 + 16 * i.val + 4 * (4 * (w.val - i.val) + j) = 0x100 + 16 * w.val + 4 * j := by omega
    rw [offset]
    exact wordRecord_window w ⟨j, hj⟩

theorem entryWrite_isWindow (hn : i.val + n ≤ 32) (hl : data.length = 4 * n) :
    ∀ x ∈ (entryWrite h i data).records, x.isWindow = true := by
  intro x hx
  obtain ⟨w, j, -, -, -, rfl⟩ := (entryWrite_mem_records hn hl x).1 hx
  rfl

/-- None of its entries is covered in part. -/
theorem entryWrite_coversPart (hn : i.val + n ≤ 32) (hl : data.length = 4 * n) :
    (entryWrite h i data).records.any (entryWrite h i data).coversPart = false := by
  rw [List.any_eq_false]
  intro x hx
  obtain ⟨w, j, hlo, hhi, -, rfl⟩ := (entryWrite_mem_records hn hl x).1 hx
  rw [MgmtRequest.coversPart_iff]
  rintro (⟨w', j', e, hnot⟩ | ⟨_, _, e, -⟩)
  · injection e with e _
    subst e
    apply hnot
    show 0x100 + 16 * i.val ≤ 0x100 + 16 * w.val ∧ 0x100 + 16 * w.val + 16 ≤ 0x100 + 16 * i.val + 4 * data.length
    omega
  · exact nomatch e

/-- It is refused exactly where one of its entries is not lawful (R6, R205). -/
theorem State.judgeWrite_entries (s : State) (hn : i.val + n ≤ 32) (hl : data.length = 4 * n) :
    s.judgeWrite (entryWrite h i data) =
      if ∃ w : WindowIx, i.val ≤ w.val ∧ w.val < i.val + n ∧ ((entryWrite h i data).windowFor w).lawful s.spanExp = false
      then some .badentry else none := by
  rw [State.judgeWrite_windows (entryWrite_isWindow hn hl) (entryWrite_coversPart hn hl)]
  refine if_congr ?_ rfl rfl
  rw [List.any_eq_true]
  constructor
  · rintro ⟨x, hx, hbad⟩
    obtain ⟨w, j, hlo, hhi, -, rfl⟩ := (entryWrite_mem_records hn hl x).1 hx
    exact ⟨w, hlo, hhi, by simpa [State.badEntry] using hbad⟩
  · rintro ⟨w, hlo, hhi, hbad⟩
    exact ⟨.window w 0, (entryWrite_mem_records hn hl _).2 ⟨w, 0, hlo, hhi, by decide, rfl⟩,
      by simpa [State.badEntry] using hbad⟩

/-- The word of an entry that it carries. -/
theorem entryWrite_wordAt (m j : Nat) :
    (entryWrite h i data).wordAt (0x100 + 16 * (i.val + m) + 4 * j) = data.getD (4 * m + j) 0 := by
  show data.getD ((0x100 + 16 * (i.val + m) + 4 * j - (0x100 + 16 * i.val)) / 4) 0 = _
  congr 1
  omega

/-- The entry that it carries, field by field (R7, R212). -/
theorem entryWrite_windowFor (w : WindowIx) (m : Nat) (hm : w.val = i.val + m) :
    (entryWrite h i data).windowFor w =
      { valid := (data.getD (4 * m + 2) 0).getLsbD 31
        offset := data.getD (4 * m + 0) 0
        sizeExp := BitVec.ofNat 8 ((data.getD (4 * m + 2) 0).toNat % 256)
        branch := Fin.ofNat 4 ((data.getD (4 * m + 2) 0).toNat / 256 % 4)
        target := data.getD (4 * m + 1) 0
        rights :=
          { read := (data.getD (4 * m + 2) 0).getLsbD 16
            write := (data.getD (4 * m + 2) 0).getLsbD 17
            post := (data.getD (4 * m + 2) 0).getLsbD 18
            swap := (data.getD (4 * m + 2) 0).getLsbD 19 }
        hits := 0 } := by
  have word : ∀ j, (entryWrite h i data).wordAt (windowOffset w + 4 * j) = data.getD (4 * m + j) 0 := fun j => by
    rw [windowOffset, hm, entryWrite_wordAt]
  have w0 : (entryWrite h i data).wordAt (windowOffset w) = data.getD (4 * m + 0) 0 := word 0
  have w1 : (entryWrite h i data).wordAt (windowOffset w + 4) = data.getD (4 * m + 1) 0 := word 1
  have w2 : (entryWrite h i data).wordAt (windowOffset w + 8) = data.getD (4 * m + 2) 0 := word 2
  have exp : ∀ x : Word, bitsOf x 7 0 = x.toNat % 256 := fun x => by simp [bitsOf]
  have branch : ∀ x : Word, bitsOf x 9 8 = x.toNat / 256 % 4 := fun x => by simp [bitsOf]
  unfold MgmtRequest.windowFor
  dsimp only
  rw [w0, w1, w2, exp, branch]

end

/-- Settles O47: the write is judged by its entries alone, and each whole entry is stored at its first word. -/
theorem windowEntryIsWrittenWhole : Obligations.WindowEntryIsWrittenWhole := by
  intro s h i n data hpos hn hl hnext v hv word hword entry hentry fits hfits
  obtain ⟨hwrite, hhead⟩ := hnext
  have hhead : s.mgmtQueue.head? = some (entryWrite h i data) := hhead
  have spanExp : v.spanExp = s.spanExp := by rw [hv, State.afterHeadLeaves_spanExp]
  have carried : ∀ (w : WindowIx) (m : Nat), w.val = i.val + m → (entryWrite h i data).windowFor w = entry m :=
    fun w m hm => by rw [entryWrite_windowFor w m hm, hentry, hword]
  have unlawful : ∀ m, (entry m).lawful v.spanExp = false ↔ (entry m).valid = true ∧ ¬fits m := fun m => by
    have exp : (entry m).sizeExp.toNat = (word m 2).toNat % 256 := by
      rw [hentry]
      simp
    have offset : (entry m).offset = word m 0 := by rw [hentry]
    have target : (entry m).target = word m 1 := by rw [hentry]
    simp only [Window.lawful_eq_false, exp, offset, target, spanExp, hfits, exists_eq_left]
  have row : (entryWrite h i data).row.command = .windowEntryWrite := by
    have nonempty : (entryWrite h i data).records ≠ [] :=
      List.ne_nil_of_mem ((entryWrite_mem_records hn hl _).2 ⟨i, 0, le_refl _, by omega, by decide, rfl⟩)
    rw [MgmtRequest.row_write _ hwrite, MgmtRequest.writeRow_windows nonempty (entryWrite_isWindow hn hl)]
    rfl
  have run : exec .windowEntryWrite s = .next (v.carryOutWrite (entryWrite h i data)) := by
    rw [← row, exec_write hhead hwrite, hv]
  have judged := State.judgeWrite_entries (h := h) v hn hl
  refine ⟨fun hall => ?_, fun ⟨m, hm, hvalid, hnot⟩ => ?_⟩
  · have accepted : v.judgeWrite (entryWrite h i data) = none := by
      refine judged.trans (if_neg ?_)
      rintro ⟨w, hlo, hhi, hbad⟩
      rw [carried w (w.val - i.val) (by omega), unlawful] at hbad
      obtain ⟨hvalid, hnot⟩ := hbad
      rcases hall _ (show w.val - i.val < n by omega) with invalid | hfit
      · exact nomatch hvalid.symm.trans invalid
      · exact hnot hfit
    obtain ⟨ws, hws, hget⟩ := State.applyRecords_windows (entryWrite h i data) _ (entryWrite_isWindow hn hl) v
    have noCommand : (entryWrite h i data).records.findSome? (entryWrite h i data).command? = none := by
      rw [List.findSome?_eq_none_iff]
      intro x hx
      obtain ⟨w, j, -, -, -, rfl⟩ := (entryWrite_mem_records hn hl x).1 hx
      rfl
    refine ⟨{ v with windows := ws, mgmt := { v.mgmt with writes := v.mgmt.writes + 1 } }, ?_, fun j m hm hj => ?_,
      fun j hj => ?_, rfl⟩
    · rw [run]
      unfold State.carryOutWrite
      rw [accepted]
      dsimp only
      rw [hws, noCommand]
      rfl
    · refine (hget j).trans ?_
      rw [if_pos ((entryWrite_mem_records hn hl _).2 ⟨j, 0, by omega, by omega, by decide, rfl⟩)]
      exact carried j m hj
    · refine (hget j).trans (if_neg fun hmem => ?_)
      obtain ⟨w, k, hlo, hhi, -, e⟩ := (entryWrite_mem_records hn hl _).1 hmem
      injection e with e _
      subst e
      omega
  · rw [run, State.carryOutWrite_refused (st := .badentry)]
    · rfl
    · refine judged.trans (if_pos ⟨⟨i.val + m, by omega⟩, Nat.le_add_right _ _, by show i.val + m < i.val + n; omega, ?_⟩)
      rw [carried _ m rfl, unlawful]
      exact ⟨hvalid, hnot⟩

/-! ### The state after reset -/

theorem State.reset_br (b : Branch) : State.reset.br b = .afterPowerOn 0 := by
  simp [State.br, State.reset]

theorem State.reset_entry (e : EntryIx) : State.reset.entry e = .free := by
  simp [State.entry, State.reset]

/-- Settles O3: the queues and tables are empty after reset, and each branch stands as after power-on. -/
theorem resetKeepsEveryLaw : Obligations.ResetKeepsEveryLaw := by
  refine ⟨by decide, by decide, fun b => ?_, fun b => ?_, by decide, fun b => ?_, fun i => ?_, by decide, by decide,
    ⟨by decide, by decide, by decide, fun b => ?_⟩, fun b => ?_, fun e c t d he => ?_⟩
  · rw [State.reset_br]; decide
  · rw [State.reset_br]; decide +revert
  · rw [State.reset_br]; decide
  · exact Window.lawful_of_invalid _ (by simp [State.reset, Window.cleared])
  · rw [State.reset_br]; exact fun _ h => nomatch h
  · rw [State.reset_br]; exact fun _ h => nomatch h
  · rw [State.reset_entry] at he; exact nomatch he

end Sys2Proof.Machine

namespace Sys2Proof.Machine

open Sys2Proof

/-! ### The tags of the requests that are not answered (R23, R24) -/

/-- What the law of tags looks at: the queues that hold requests, the tags of the entries, the tag register, the reservations and
the reply frames. -/
def State.ledger (s : State) :=
  (s.held, s.ingress, s.mgmtQueue, (fun b => (s.br b).queue), (fun e => (s.entry e).tags), s.tagReg, s.reservations, s.replyFrames)

/-- The law of tags, with requests at hand that have left their queue and are not answered yet: their tags are ts. -/
def State.TagLawWith (s : State) (ts : List UTag) : Prop :=
  (ts ++ s.outstanding).Nodup ∧ (ts ++ s.outstanding).Perm s.tagReg ∧ s.reservations = s.tagReg.length ∧
    s.reservations + s.replyFrames ≤ Config.replySlots ∧ (s.held = true → s.ingress ≠ [])

theorem State.tagLaw_iff (s : State) : s.TagLaw ↔ s.TagLawWith [] := Iff.rfl

/-- The entries of a table, in the order of their numbers. -/
theorem toList_eq_map_finRange {α : Type} {n : Nat} (v : Vector α n) : v.toList = (List.finRange n).map fun i => v[i] :=
  List.ext_getElem (by simp) fun i h _ => by simp

/-- The outstanding tags, queue by queue and entry by entry. -/
theorem State.outstanding_eq (s : State) : s.outstanding =
    s.heldTags ++ s.mgmtQueue.flatMap (fun r => hdrTags r.hdr) ++ (List.finRange 4).flatMap s.queueTags ++
      (List.finRange 32).flatMap fun e => (s.entry e).tags := by
  simp only [State.outstanding, toList_eq_map_finRange, List.flatMap_map]
  rfl

/-- The law looks at the ledger alone. -/
theorem State.TagLawWith.of_ledger {s t : State} {ts : List UTag} (h : s.TagLawWith ts) (e : t.ledger = s.ledger) :
    t.TagLawWith ts := by
  simp only [State.ledger, Prod.mk.injEq] at e
  obtain ⟨hheld, hing, hmq, hqueue, hent, hreg, hres, hrep⟩ := e
  have hqueue : t.queueTags = s.queueTags := funext fun b => by
    rw [State.queueTags, State.queueTags, congrFun hqueue b]
  simpa only [State.TagLawWith, State.outstanding_eq, State.heldTags, hheld, hing, hmq, hqueue, hent, hreg, hres, hrep]
    using h

/-- Requests that pass between the queues, the entries and the hand keep the law. -/
theorem State.TagLawWith.move {s t : State} {ts us : List UTag} (h : s.TagLawWith ts) (hreg : t.tagReg = s.tagReg)
    (hres : t.reservations = s.reservations) (hrep : t.replyFrames ≤ s.replyFrames)
    (hheld : t.held = true → t.ingress ≠ []) (hp : (us ++ t.outstanding).Perm (ts ++ s.outstanding)) :
    t.TagLawWith us := by
  obtain ⟨hnodup, hperm, hlen, hroom, -⟩ := h
  exact ⟨hp.nodup_iff.2 hnodup, hreg ▸ hp.trans hperm, by rw [hres, hreg, hlen], by omega, hheld⟩

/-- The requests at hand stand in no order. -/
theorem State.TagLawWith.perm {s : State} {ts us : List UTag} (h : s.TagLawWith ts) (hp : us.Perm ts) : s.TagLawWith us :=
  h.move rfl rfl (le_refl _) h.2.2.2.2 (hp.append_right _)

/-! Counters are no part of the ledger. -/

theorem State.TagLawWith.withClassifier {s : State} {ts : List UTag} (h : s.TagLawWith ts) (c : ClassifierCounters) :
    State.TagLawWith { s with classifier := c } ts :=
  h.of_ledger rfl

theorem State.TagLawWith.withTracker {s : State} {ts : List UTag} (h : s.TagLawWith ts) (c : TrackerCounters) :
    State.TagLawWith { s with tracker := c } ts :=
  h.of_ledger rfl

theorem State.TagLawWith.withMgmt {s : State} {ts : List UTag} (h : s.TagLawWith ts) (c : MgmtCounters) :
    State.TagLawWith { s with mgmt := c } ts :=
  h.of_ledger rfl

/-! ### Answers -/

theorem State.replyFrames_eq (s : State) : s.replyFrames = s.replies.length :=
  List.countP_eq_length_filter

/-- A request at hand is answered: its tag leaves the register, and its reservation becomes a reply frame (R23, R24). -/
theorem State.TagLawWith.placeReply {s : State} {t : UTag} {ts : List UTag} (h : s.TagLawWith (t :: ts)) (st : Status)
    (d : Byte) (ws : List Word) : (s.placeReply t st d ws).TagLawWith ts := by
  obtain ⟨hnodup, hperm, hlen, hroom, hheld⟩ := h
  obtain ⟨hnot, hnodup⟩ := List.nodup_cons.1 hnodup
  have hout : (s.placeReply t st d ws).outstanding = s.outstanding := by
    simp [State.outstanding, State.heldTags]
  have hleft : (ts ++ s.outstanding).Perm (s.tagReg.filter (· ≠ t)) := by
    have := hperm.filter (· ≠ t)
    rwa [List.cons_append, List.filter_cons_of_neg (by simp), List.filter_eq_self.2 fun g hg => by
      simpa using fun e : g = t => hnot (e ▸ hg)] at this
  have hcount : s.tagReg.length = (s.tagReg.filter (· ≠ t)).length + 1 := by
    rw [← hleft.length_eq, ← hperm.length_eq]; simp
  refine ⟨hout ▸ hnodup, ?_, ?_, ?_, by simpa using hheld⟩
  · rw [hout, State.placeReply_tagReg]; exact hleft
  · rw [State.placeReply_reservations, State.placeReply_tagReg]; omega
  · have : (s.placeReply t st d ws).replyFrames = s.replyFrames + 1 := by
      simp [State.replyFrames, EgressFrame.isReply]
    rw [this, State.placeReply_reservations]; omega

theorem State.TagLawWith.answer {s : State} {h : ReqHeader} {ts : List UTag} (hs : s.TagLawWith (hdrTags h ++ ts))
    (st : Status) : (s.answer h st).TagLawWith ts := by
  cases h with
  | post => exact hs
  | tagged k t => exact State.TagLawWith.placeReply hs st 0 []

theorem State.TagLawWith.answerAll {hs : List ReqHeader} {s : State} {ts : List UTag}
    (h : s.TagLawWith (hs.flatMap hdrTags ++ ts)) (st : Status) : (s.answerAll hs st).TagLawWith ts := by
  induction hs generalizing s with
  | nil => exact h
  | cons r hs ih =>
    rw [List.flatMap_cons, List.append_assoc] at h
    exact ih (h.answer st)

/-! ### What leaves the ledger as it was -/

@[simp] theorem State.ledger_updBr (s : State) (b : Branch) (f : BranchUnit → BranchUnit)
    (h : (f (s.br b)).queue = (s.br b).queue) : (s.updBr b f).ledger = s.ledger := by
  have hq : ∀ c, ((s.updBr b f).br c).queue = (s.br c).queue := fun c => by
    rw [State.updBr_eq, State.br_setBr_eq]
    split
    · rename_i e; rw [h, e]
    · rfl
  simp [State.ledger, hq, State.replyFrames]

@[simp] theorem State.ledger_hand (s : State) (b : Branch) (f : BranchFrame) : (s.hand b f).ledger = s.ledger :=
  s.ledger_updBr b _ (by split <;> rfl)

@[simp] theorem State.ledger_trainBranch (s : State) (b : Branch) : (s.trainBranch b).ledger = s.ledger :=
  s.ledger_updBr b _ rfl

@[simp] theorem State.ledger_goodFrameOn (s : State) (b : Branch) : (s.goodFrameOn b).ledger = s.ledger :=
  s.ledger_updBr b _ rfl

@[simp] theorem State.ledger_discardOn (s : State) (b : Branch) : (s.discardOn b).ledger = s.ledger :=
  s.ledger_updBr b _ rfl

@[simp] theorem State.ledger_countUnexpected (s : State) (b : Branch) : (s.countUnexpected b).ledger = s.ledger :=
  s.ledger_updBr b _ rfl

@[simp] theorem State.ledger_setRecord (s : State) (b : Branch) (p : Position) (r : Record) :
    (s.setRecord b p r).ledger = s.ledger :=
  s.ledger_updBr b _ rfl

@[simp] theorem State.ledger_loseRecords (s : State) (b : Branch) (sel : Position → Bool) :
    (s.loseRecords b sel).ledger = s.ledger :=
  s.ledger_updBr b _ rfl

@[simp] theorem State.ledger_vacateRecords (s : State) (b : Branch) : (s.vacateRecords b).ledger = s.ledger :=
  s.ledger_updBr b _ rfl

@[simp] theorem State.ledger_stopEnumeration (s : State) (b : Branch) (o : EnumOutcome) :
    (s.stopEnumeration b o).ledger = s.ledger :=
  s.ledger_updBr b _ rfl

@[simp] theorem State.ledger_abortEnumeration (s : State) (b : Branch) : (s.abortEnumeration b).ledger = s.ledger := by
  simp [State.abortEnumeration_eq]

@[simp] theorem State.ledger_beginStep (s : State) (b : Branch) : (s.beginStep b).ledger = s.ledger := by
  simp [State.beginStep]

@[simp] theorem State.ledger_startEnumeration (s : State) (b : Branch) : (s.startEnumeration b).ledger = s.ledger := by
  simp [State.startEnumeration]

@[simp] theorem State.ledger_enterWaking (s : State) (b : Branch) : (s.enterWaking b).ledger = s.ledger := by
  simp [State.enterWaking_eq]

@[simp] theorem State.ledger_updPort (s : State) (p : Port) (f : LinkPort → LinkPort) :
    (s.updPort p f).ledger = s.ledger := by
  cases p with
  | u => rfl
  | branch b => exact s.ledger_updBr b _ rfl

@[simp] theorem State.ledger_signalWakeU (s : State) : s.signalWakeU.ledger = s.ledger := by
  unfold State.signalWakeU; split <;> rfl

/-! The notice unit places ATTENTION frames alone. -/

@[simp] theorem State.ledger_presentationDue (s : State) : s.presentationDue.ledger = s.ledger := by
  simp [State.ledger, State.replyFrames_eq]

@[simp] theorem State.ledger_joinNotice (s : State) (n : NoticeBody) : (s.joinNotice n).ledger = s.ledger := by
  simp [State.ledger, State.replyFrames_eq]

@[simp] theorem State.ledger_raise (s : State) (c : Cause) : (s.raise c).ledger = s.ledger := by
  simp [State.ledger, State.replyFrames_eq]

@[simp] theorem State.ledger_endEnumeration (s : State) (b : Branch) (o : EnumOutcome) :
    (s.endEnumeration b o).ledger = s.ledger := by
  simp [State.endEnumeration]

@[simp] theorem State.ledger_afterRemoval (s : State) (kept : List Notice) (g : Bool) :
    (s.afterRemoval kept g).ledger = s.ledger := by
  simp [State.ledger, State.replyFrames_eq]

@[simp] theorem State.ledger_removeNotices (s : State) (gone : Source → Bool) :
    (s.removeNotices gone).ledger = s.ledger := by
  simp [State.ledger, State.replyFrames_eq]

@[simp] theorem State.ledger_removeNoticesOf (s : State) (b : Branch) (gone : Position → Bool) :
    (s.removeNoticesOf b gone).ledger = s.ledger :=
  s.ledger_removeNotices _

@[simp] theorem ledger_noticeDoings (b : Branch) (gone : Position → Bool) (ended : Bool) (cause : Option Cause) (s : State) :
    (noticeDoings b gone ended cause s).ledger = s.ledger := by
  cases cause <;> cases ended <;> simp [noticeDoings, State.raiseEnumIf]

/-- An entry that is of no WAITING request holds no tag. -/
theorem State.entry_tags_of_hasWaiting {s : State} {b : Branch} (h : s.hasWaiting b = false) {e : EntryIx}
    (hb : (s.entry e).onBranch b = true) : (s.entry e).tags = [] := by
  have := List.any_eq_false.1 h (s.entry e) (by simp [State.entry])
  revert this hb
  cases s.entry e <;> simp [PendingEntry.onBranch, PendingEntry.waitingHeader?, PendingEntry.tags]

/-- What each entry becomes where those of a branch are freed. -/
theorem State.freeEntries_entry (s : State) (b : Branch) (e : EntryIx) :
    (s.freeEntries b).entry e = if (s.entry e).onBranch b then .free else s.entry e :=
  mapTable_get _ _ _

theorem State.ledger_freeEntries {s : State} {b : Branch} (h : s.hasWaiting b = false) :
    (s.freeEntries b).ledger = s.ledger := by
  have tags : ∀ e, ((s.freeEntries b).entry e).tags = (s.entry e).tags := fun e => by
    rw [State.freeEntries_entry]
    split
    · rename_i hb; rw [State.entry_tags_of_hasWaiting h hb]; rfl
    · rfl
  simp only [State.ledger, tags]
  rfl

/-- A drain that completes frees ORPHANED entries alone (R79, R129). -/
@[simp] theorem State.ledger_judgeDrain (s : State) (b : Branch) : (s.judgeDrain b).ledger = s.ledger := by
  unfold State.judgeDrain
  split
  · rename_i h
    exact (State.ledger_hand _ b .hush).trans
      ((State.ledger_freeEntries (s := s.updBr b _) h.2.2).trans (s.ledger_updBr b _ rfl))
  · rfl

/-! ### Requests that pass between the hand, a queue and an entry -/

/-- Where one part of a table takes y and gives x, and the others stand, so does the table. -/
theorem flatMap_perm_of_one {α β : Type} [DecidableEq α] {l : List α} (hl : l.Nodup) {a : α} (ha : a ∈ l) {f g : α → List β}
    {x y : List β} (hne : ∀ c, c ≠ a → g c = f c) (hx : (x ++ g a).Perm (y ++ f a)) :
    (x ++ l.flatMap g).Perm (y ++ l.flatMap f) := by
  have split : ∀ k : α → List β, (l.flatMap k).Perm (k a ++ (l.erase a).flatMap k) := fun k =>
    (List.perm_cons_erase ha).flatMap_right k
  have rest : (l.erase a).flatMap g = (l.erase a).flatMap f :=
    List.flatMap_congr fun c hc => hne c ((List.Nodup.mem_erase_iff hl).1 hc).1
  refine ((split g).append_left x).trans (.trans ?_ ((split f).append_left y).symm)
  rw [rest, ← List.append_assoc, ← List.append_assoc]
  exact hx.append_right _

/-- The queue of one branch takes the requests under tags y from the hand, and gives those under tags x. -/
theorem State.TagLawWith.updBr {s : State} {ts x y : List UTag} (h : s.TagLawWith (y ++ ts)) (b : Branch)
    (f : BranchUnit → BranchUnit)
    (hx : (x ++ (f (s.br b)).queue.flatMap fun q => hdrTags q.hdr).Perm (y ++ s.queueTags b)) :
    (s.updBr b f).TagLawWith (x ++ ts) := by
  have moved : (x ++ (List.finRange 4).flatMap (s.updBr b f).queueTags).Perm (y ++ (List.finRange 4).flatMap s.queueTags) := by
    refine flatMap_perm_of_one (List.nodup_finRange 4) (List.mem_finRange b) (fun c hc => ?_) ?_
    · simp only [State.queueTags, State.updBr_eq, State.br_setBr_ne s _ hc]
    · simpa only [State.queueTags, State.updBr_eq, State.br_setBr] using hx
  have held : (s.updBr b f).heldTags = s.heldTags := rfl
  refine h.move rfl rfl (le_refl _) h.2.2.2.2 (List.perm_iff_count.2 fun g => ?_)
  have := moved.count_eq g
  simp only [State.outstanding_eq, List.count_append, State.updBr_entry, State.updBr_mgmtQueue, held] at this ⊢
  omega

/-- One entry takes the request under tags y from the hand, and gives that under tags x. -/
theorem State.TagLawWith.setEntry {s : State} {ts x y : List UTag} (h : s.TagLawWith (y ++ ts)) (e : EntryIx)
    (n : PendingEntry) (hx : (x ++ n.tags).Perm (y ++ (s.entry e).tags)) : (s.setEntry e n).TagLawWith (x ++ ts) := by
  have moved : (x ++ (List.finRange 32).flatMap fun i => ((s.setEntry e n).entry i).tags).Perm
      (y ++ (List.finRange 32).flatMap fun i => (s.entry i).tags) := by
    refine flatMap_perm_of_one (List.nodup_finRange 32) (List.mem_finRange e) (fun c hc => ?_) ?_
    · simp only [State.entry_setEntry_ne s n hc]
    · simpa only [State.entry_setEntry] using hx
  have held : (s.setEntry e n).heldTags = s.heldTags := rfl
  have queues : (s.setEntry e n).queueTags = s.queueTags := rfl
  refine h.move rfl rfl (le_refl _) h.2.2.2.2 (List.perm_iff_count.2 fun g => ?_)
  have := moved.count_eq g
  simp only [State.outstanding_eq, List.count_append, State.setEntry_mgmtQueue, held, queues] at this ⊢
  omega

/-- The whole forward queue of a branch is at hand (R55 to R57). -/
theorem State.TagLawWith.emptyQueue {s : State} {ts : List UTag} (h : s.TagLawWith ts) (b : Branch) :
    (s.emptyQueue b).TagLawWith (s.queueTags b ++ ts) :=
  State.TagLawWith.updBr (y := []) h b _ (by simp)

/-- The head of a forward queue is at hand. -/
theorem State.TagLawWith.popSlot {s : State} {ts : List UTag} (h : s.TagLawWith ts) {b : Branch} {q : Slot} {rest : List Slot}
    (hq : (s.br b).queue = q :: rest) : (s.popSlot b).TagLawWith (hdrTags q.hdr ++ ts) :=
  State.TagLawWith.updBr (y := []) h b _ (by simp [State.queueTags, hq])

/-- The entries that a branch event takes from their requests give these to the hand. -/
theorem State.TagLawWith.mapEntries {s t : State} {ts : List UTag} (h : s.TagLawWith ts) (b : Branch) (sel : Carried → Bool)
    (hs : t.ledger = { s with entries := t.entries }.ledger)
    (he : ∀ e, (s.entry e).tags = ((s.entry e).waitingHeader? b sel).toList.flatMap hdrTags ++ (t.entry e).tags) :
    t.TagLawWith ((s.waitingHeaders b sel).flatMap hdrTags ++ ts) := by
  have given : (s.waitingHeaders b sel).flatMap hdrTags =
      (List.finRange 32).flatMap fun e => ((s.entry e).waitingHeader? b sel).toList.flatMap hdrTags := by
    unfold State.waitingHeaders
    rw [toList_eq_map_finRange, List.filterMap_map, List.filterMap_eq_flatMap_toList, List.flatMap_assoc]
    rfl
  have moved : ((s.waitingHeaders b sel).flatMap hdrTags ++ (List.finRange 32).flatMap fun e => (t.entry e).tags).Perm
      ((List.finRange 32).flatMap fun e => (s.entry e).tags) := by
    rw [given, funext he]
    exact List.flatMap_append_perm _ _ _
  refine State.TagLawWith.of_ledger (s := { s with entries := t.entries }) ?_ hs
  refine h.move rfl rfl (le_refl _) h.2.2.2.2 (List.perm_iff_count.2 fun g => ?_)
  have := moved.count_eq g
  have held : ({ s with entries := t.entries } : State).heldTags = s.heldTags := rfl
  have queues : ({ s with entries := t.entries } : State).queueTags = s.queueTags := rfl
  have entry : ∀ e, ({ s with entries := t.entries } : State).entry e = t.entry e := fun _ => rfl
  simp only [State.outstanding_eq, List.count_append, held, queues, entry] at this ⊢
  omega

theorem State.TagLawWith.freeEntries {s : State} {ts : List UTag} (h : s.TagLawWith ts) (b : Branch) :
    (s.freeEntries b).TagLawWith ((s.waitingHeaders b fun _ => true).flatMap hdrTags ++ ts) := by
  refine h.mapEntries b _ rfl fun e => ?_
  rw [State.freeEntries_entry]
  cases s.entry e with
  | free => rfl
  | orphaned c | waiting c =>
    by_cases hb : c.branch = b <;> simp [PendingEntry.waitingHeader?, PendingEntry.tags, PendingEntry.onBranch, hb, hdrTags]

theorem State.TagLawWith.orphanWaiting {s : State} {ts : List UTag} (h : s.TagLawWith ts) (b : Branch) (sel : Carried → Bool)
    (st : Status) : (s.orphanWaiting b sel st).TagLawWith ((s.waitingHeaders b sel).flatMap hdrTags ++ ts) := by
  refine h.mapEntries b _ rfl fun e => ?_
  rw [State.orphanWaiting_entry]
  cases s.entry e with
  | free | orphaned => rfl
  | waiting c ut d =>
    by_cases hb : c.branch = b ∧ sel c = true <;> simp [PendingEntry.waitingHeader?, PendingEntry.tags, hb, hdrTags]


/-- A forward queue and the WAITING entries of its branch are emptied into the hand (R55, R76, R77). -/
theorem State.TagLawWith.emptyBranch {s : State} {ts : List UTag} (h : s.TagLawWith ts) (b : Branch) :
    (State.freeEntries b (s.emptyQueue b)).TagLawWith
      ((s.queuedHeaders b ++ s.waitingHeaders b fun _ => true).flatMap hdrTags ++ ts) := by
  refine ((h.emptyQueue b).freeEntries b).perm ?_
  rw [List.flatMap_append, State.queuedHeaders_tags, ← List.append_assoc]
  exact List.perm_append_comm.append_right _

/-- The same, where the entries become ORPHANED (R57, R78). -/
theorem State.TagLawWith.flushBranch {s : State} {ts : List UTag} (h : s.TagLawWith ts) (b : Branch) (st : Status) :
    (State.orphanWaiting b (fun _ => true) st (s.emptyQueue b)).TagLawWith
      ((s.queuedHeaders b ++ s.waitingHeaders b fun _ => true).flatMap hdrTags ++ ts) := by
  refine ((h.emptyQueue b).orphanWaiting b _ st).perm ?_
  rw [List.flatMap_append, State.queuedHeaders_tags, ← List.append_assoc]
  exact List.perm_append_comm.append_right _

/-! ### The events of a branch -/

/-- A branch event answers what it took, before or after its doings in the notice unit. -/
theorem State.TagLawWith.branchEvent {s : State} {hs : List ReqHeader} {ts : List UTag}
    (h : s.TagLawWith (hs.flatMap hdrTags ++ ts)) (st : Status) (b : Branch) (gone : Position → Bool) (ended : Bool)
    (cause : Option Cause) :
    (s.inOpenOrder (State.answerAll hs st) (noticeDoings b gone ended cause)).TagLawWith ts := by
  have next : State.TagLawWith { s with choices := s.choices + 1 } (hs.flatMap hdrTags ++ ts) := h.of_ledger rfl
  rcases State.inOpenOrder_cases (State.answerAll hs st) (noticeDoings b gone ended cause) s with e | e <;> rw [e]
  · exact State.TagLawWith.answerAll (next.of_ledger (ledger_noticeDoings _ _ _ _ _)) st
  · exact (next.answerAll st).of_ledger (ledger_noticeDoings _ _ _ _ _)

theorem State.TagLawWith.branchLinkLoss {s : State} {ts : List UTag} (h : s.TagLawWith ts) (b : Branch) :
    (s.branchLinkLoss b).TagLawWith ts := by
  rw [State.branchLinkLoss_event]
  exact State.TagLawWith.branchEvent ((h.emptyBranch b).of_ledger (by simp)) _ _ _ _ _

theorem State.TagLawWith.wakeFails {s : State} {ts : List UTag} (h : s.TagLawWith ts) (b : Branch) :
    (s.wakeFails b).TagLawWith ts := by
  rw [State.wakeFails_event]
  exact State.TagLawWith.branchEvent ((h.emptyBranch b).of_ledger (by simp)) _ _ _ _ _

theorem State.TagLawWith.takeBreak {s : State} {ts : List UTag} (h : s.TagLawWith ts) (b : Branch) (k : Nat) :
    (s.takeBreak b k).TagLawWith ts := by
  rw [State.takeBreak_event]
  refine State.TagLawWith.of_ledger ?_ (State.ledger_judgeDrain _ b)
  exact State.TagLawWith.branchEvent ((h.orphanWaiting b _ .lost).of_ledger (by simp)) _ _ _ _ _

@[simp] theorem State.ledger_resetBranchState (s : State) (b : Branch) : (s.resetBranchState b).ledger = s.ledger := by
  unfold State.resetBranchState
  cases (s.br b).state with
  | active | draining => dsimp only; split <;> simp
  | dormant | failed => simp
  | waking | down => rfl

theorem State.TagLawWith.resetBranch {s : State} {ts : List UTag} (h : s.TagLawWith ts) (b : Branch) :
    (s.resetBranch b).TagLawWith ts := by
  rw [State.resetBranch_event]
  exact State.TagLawWith.branchEvent ((h.flushBranch b .flushed).of_ledger (by simp)) _ _ _ _ _

theorem State.TagLawWith.branchLeavesUp {s : State} {ts : List UTag} (h : s.TagLawWith ts) (b : Branch) :
    (s.branchLeavesUp b).TagLawWith ts := by
  have trained := h.of_ledger (t := State.trainBranch b (s.updBr b fun u => { u with unsent := [] })) (by simp)
  unfold State.branchLeavesUp
  dsimp only
  split
  · exact trained.branchLinkLoss b
  · exact trained

/-! ### Resets -/

/-- With every queue and table empty, the law holds. -/
theorem State.TagLawWith.of_empty {s : State} (hheld : s.held = false) (hmq : s.mgmtQueue = [])
    (hq : ∀ b, (s.br b).queue = []) (he : ∀ e, s.entry e = .free) (hreg : s.tagReg = []) (hres : s.reservations = 0)
    (heg : s.egress = []) : s.TagLawWith [] := by
  have hout : s.outstanding = [] := by
    simp [State.outstanding_eq, State.heldTags, hheld, hmq, State.queueTags, hq, he, PendingEntry.tags]
  simp [State.TagLawWith, hout, hreg, hres, hheld, State.replyFrames, heg]

theorem State.tagLaw_linkReset (s : State) : s.linkReset.TagLawWith [] := by
  refine .of_empty rfl rfl (fun b => ?_) (fun e => ?_) rfl rfl rfl
  · rw [show s.linkReset.br b = (s.br b).afterLinkReset s.now from mapTable_get _ _ _]; rfl
  · simp [State.entry, State.linkReset]

theorem State.tagLaw_uLinkLoss (s : State) : s.uLinkLoss.TagLawWith [] :=
  (State.tagLaw_linkReset _).of_ledger rfl

theorem State.TagLawWith.leaveUp {s : State} (h : s.TagLawWith []) (p : Port) : (s.leaveUp p).TagLawWith [] := by
  cases p with
  | u => exact s.tagLaw_uLinkLoss
  | branch b => exact h.branchLeavesUp b

theorem State.TagLawWith.departure {s : State} (h : s.TagLawWith []) (p : Port) : (s.departure p).TagLawWith [] := by
  unfold State.departure
  split
  · exact h.leaveUp p
  · exact h

theorem State.TagLawWith.receiveBad {s : State} (h : s.TagLawWith []) (p : Port) : (s.receiveBad p).TagLawWith [] := by
  have counted := h.of_ledger (s.ledger_updPort p LinkPort.countBad)
  unfold State.receiveBad
  dsimp only
  split
  · split
    · exact counted
    · have risen := counted.of_ledger (State.ledger_updPort _ p fun q => { q with badRun := (s.portOf p).badRun + 1 })
      split
      · exact risen.leaveUp p
      · exact risen
  · split
    · exact counted
    · exact h
  · exact counted
  · exact h

/-- A change of every branch that leaves the queues. -/
theorem State.ledger_mapBranches (s : State) (f : Branch → BranchUnit → BranchUnit) (h : ∀ b u, (f b u).queue = u.queue) :
    State.ledger { s with branches := mapTable f s.branches } = s.ledger := by
  have hq : ∀ b, (State.br { s with branches := mapTable f s.branches } b).queue = (s.br b).queue := fun b => by
    rw [show State.br { s with branches := mapTable f s.branches } b = f b (s.br b) from mapTable_get _ _ _, h]
  simp only [State.ledger, hq]
  rfl

theorem State.ledger_zeroCounters (s : State) : s.zeroCounters.ledger = s.ledger :=
  Eq.trans rfl (s.ledger_mapBranches (fun _ u => u.zeroCounters) fun _ _ => rfl)

/-! ### The classifier -/

/-- The tag of the held request passes to the hand. -/
theorem State.TagLawWith.release {s : State} {ts : List UTag} (h : s.TagLawWith ts) :
    State.TagLawWith { s with held := false } (s.heldTags ++ ts) := by
  refine h.move rfl rfl (le_refl _) (fun e => nomatch e) (List.perm_iff_count.2 fun g => ?_)
  have held : State.heldTags { s with held := false } = [] := rfl
  simp only [State.outstanding, held, List.count_append, List.count_nil]
  omega

/-- The head leaves the buffer. With no request held, its tag is not outstanding there (R32). -/
theorem State.TagLawWith.dropIngressHead {s : State} {ts : List UTag} (h : s.TagLawWith ts) (hh : s.held = false) :
    s.dropIngressHead.TagLawWith ts := by
  refine h.move rfl rfl (le_refl _) (fun e => nomatch e) ?_
  have : s.dropIngressHead.outstanding = s.outstanding := by
    simp only [State.outstanding, State.heldTags, hh]
    rfl
  rw [this]

/-- A request at hand joins the management unit's input queue. -/
theorem State.TagLawWith.joinMgmt {s : State} {ts : List UTag} (q : MgmtRequest) (h : s.TagLawWith (hdrTags q.hdr ++ ts)) :
    State.TagLawWith { s with mgmtQueue := s.mgmtQueue ++ [q] } ts := by
  refine h.move rfl rfl (le_refl _) h.2.2.2.2 (List.perm_iff_count.2 fun g => ?_)
  have held : State.heldTags { s with mgmtQueue := s.mgmtQueue ++ [q] } = s.heldTags := rfl
  simp only [State.outstanding, held, List.flatMap_append, List.flatMap_singleton, List.count_append]
  omega

/-- The head of the management unit's input queue is at hand. -/
theorem State.TagLawWith.popMgmt {s : State} {ts : List UTag} (h : s.TagLawWith ts) {r : MgmtRequest}
    {rest : List MgmtRequest} (hq : s.mgmtQueue = r :: rest) :
    State.TagLawWith { s with mgmtQueue := rest } (hdrTags r.hdr ++ ts) := by
  refine h.move rfl rfl (le_refl _) h.2.2.2.2 (List.perm_iff_count.2 fun g => ?_)
  have held : State.heldTags { s with mgmtQueue := rest } = s.heldTags := rfl
  simp only [State.outstanding, held, hq, List.flatMap_cons, List.count_append]
  omega

/-- A request at hand, the head of the buffer, is held (R32). -/
theorem State.TagLawWith.hold {s : State} {ts : List UTag} {r : Request} (h : s.TagLawWith (hdrTags r.hdr ++ ts))
    (hh : s.held = false) (hr : s.ingress.head? = some r) : State.TagLawWith { s with held := true } ts := by
  obtain ⟨rest, hing⟩ := List.head?_eq_some_iff.1 hr
  refine h.move rfl rfl (le_refl _) (fun _ => by simp [hing]) (List.perm_iff_count.2 fun g => ?_)
  have held : State.heldTags { s with held := true } = hdrTags r.hdr := by simp [State.heldTags, hing]
  have free : s.heldTags = [] := by simp [State.heldTags, hh]
  simp only [State.outstanding, held, free, List.count_append, List.count_nil]
  omega

theorem State.TagLawWith.refuseRequest {s : State} {ts : List UTag} {h : ReqHeader}
    (hs : s.TagLawWith (hdrTags h ++ ts)) (why : RefuseReason) : (s.refuseRequest h why).TagLawWith ts := by
  cases h with
  | post => exact hs.withClassifier _
  | tagged k t => exact State.TagLawWith.placeReply (hs.withClassifier _) _ _ _

/-- A request at hand joins a forward queue. -/
theorem State.TagLawWith.pushSlot {s : State} {ts : List UTag} (q : Slot) (h : s.TagLawWith (hdrTags q.hdr ++ ts))
    (b : Branch) : (s.pushSlot b q).TagLawWith ts :=
  State.TagLawWith.updBr (x := []) h b _ (by
    simpa [State.queueTags] using List.perm_append_comm)

theorem State.TagLawWith.enqueueRequest {s : State} {ts : List UTag} {r : Request} (h : s.TagLawWith (hdrTags r.hdr ++ ts))
    (i : WindowIx) (b : Branch) (addr : Nat) (p : Position) : (s.enqueueRequest r i b addr p).TagLawWith ts := by
  rw [State.enqueueRequest_eq]
  generalize hq : r.slot i addr p (s.now + (s.br b).config.replyTimeout * Config.replyTimeoutUnit) = q
  have hdr : r.hdr = q.hdr := hq ▸ rfl
  rw [hdr] at h
  have counted := h.of_ledger (t := { s with
    windows := s.windows.set i.val { s.windows[i] with hits := (s.windows[i]).hits + 1 } i.isLt }) rfl
  have queued := counted.pushSlot q b
  dsimp only
  split
  · exact queued.of_ledger (State.ledger_enterWaking _ b)
  · exact queued

/-- A verdict on the head of the buffer, whose tag is at hand, gives it a place or an answer (R27, R32, R38). -/
theorem State.TagLawWith.settle {s : State} {ts : List UTag} {r : Request} (h : s.TagLawWith (hdrTags r.hdr ++ ts))
    (hh : s.held = false) (hr : s.ingress.head? = some r) (v : Verdict) : (s.settle r v).TagLawWith ts := by
  unfold State.settle
  split
  · exact (h.dropIngressHead hh).refuseRequest _
  · split
    · exact State.TagLawWith.dropIngressHead (State.TagLawWith.joinMgmt _ h) hh
    · exact h.hold hh hr
  · exact (h.dropIngressHead hh).enqueueRequest _ _ _ _

theorem State.TagLawWith.retestHeld {s : State} {ts : List UTag} (h : s.TagLawWith ts) : s.retestHeld.TagLawWith ts := by
  unfold State.retestHeld
  split
  · rename_i r rest hheld hing
    have tags : s.heldTags = hdrTags r.hdr := by simp [State.heldTags, hheld, hing]
    exact State.TagLawWith.settle (tags ▸ h.release) rfl (by simp [hing]) _
  · exact h
  · exact h

/-- Acceptance: a new tag is at hand (R27). -/
theorem State.TagLawWith.accept {s : State} {ts : List UTag} (h : s.TagLawWith ts) {t : UTag} (ht : t ∉ s.tagReg)
    (hroom : s.reservations + s.replyFrames < Config.replySlots) : (s.accept t).TagLawWith (t :: ts) := by
  obtain ⟨hnodup, hperm, hlen, -, hheld⟩ := h
  have hout : (s.accept t).outstanding = s.outstanding := rfl
  have hrep : (s.accept t).replyFrames = s.replyFrames := rfl
  refine ⟨?_, ?_, ?_, ?_, hheld⟩
  · rw [hout, List.cons_append, List.nodup_cons]
    exact ⟨fun hm => ht (hperm.mem_iff.1 hm), hnodup⟩
  · rw [hout]
    exact (hperm.cons t).trans (List.perm_append_singleton t s.tagReg).symm
  · simp [State.accept, hlen]
  · rw [hrep]
    show s.reservations + 1 + _ ≤ _
    omega

theorem State.TagLawWith.takeHead {s : State} {ts : List UTag} (h : s.TagLawWith ts) : s.takeHead.TagLawWith ts := by
  unfold State.takeHead
  split
  · exact h
  · exact h
  · rename_i r rest hheld hing
    have head : s.ingress.head? = some r := by rw [hing]; rfl
    split
    · rename_i hh
      exact State.TagLawWith.settle (by rw [hh]; exact h) hheld head _
    · rename_i k t hh
      split
      · rename_i hroom
        split
        · exact (State.TagLawWith.dropIngressHead (h.of_ledger rfl) hheld).of_ledger (State.ledger_raise _ _)
        · rename_i hfree
          have accepted := h.accept (t := t) (by simpa using hfree) hroom
          exact State.TagLawWith.settle (s := s.accept t) (by rw [hh]; exact accepted) hheld head _
      · exact h

/-! ### What arrives on U -/

theorem State.TagLawWith.receiveRequest {s : State} {ts : List UTag} (h : s.TagLawWith ts) (r : Request) :
    (s.receiveRequest r).TagLawWith ts := by
  unfold State.receiveRequest
  split
  · exact h.of_ledger rfl
  · refine h.move rfl rfl (le_refl _) (fun _ => by simp) ?_
    have held : ∀ x : UPort, State.heldTags { s with ingress := s.ingress ++ [r], u := x } = s.heldTags := fun x => by
      unfold State.heldTags
      cases hh : s.held with
      | false => rfl
      | true =>
        obtain ⟨a, rest, hi⟩ := List.exists_cons_of_ne_nil (h.2.2.2.2 hh)
        simp [hi]
    unfold State.outstanding
    rw [held]


theorem State.TagLawWith.onU {s : State} {ts : List UTag} (h : s.TagLawWith ts) (take : State → State)
    (ht : s.goodFrameOnU.TagLawWith ts → (take s.goodFrameOnU).TagLawWith ts) : (s.onU take).TagLawWith ts := by
  unfold State.onU
  split
  · exact ht (h.of_ledger rfl)
  · exact h

/-- A timer that may run out does, at its time. -/
theorem State.TagLawWith.runOut {s : State} {ts : List UTag} (h : s.TagLawWith ts) (d : Time) (act : State → State)
    (ha : (s.advanceTo d).TagLawWith ts → (act (s.advanceTo d)).TagLawWith ts) : (s.runOut d act).TagLawWith ts := by
  unfold State.runOut
  split
  · exact ha (h.of_ledger rfl)
  · exact h

theorem State.TagLawWith.onBranch {s : State} {ts : List UTag} (h : s.TagLawWith ts) (b : Branch) (take : State → State)
    (ht : (s.goodFrameOn b).TagLawWith ts → (take (s.goodFrameOn b)).TagLawWith ts) : (s.onBranch b take).TagLawWith ts := by
  unfold State.onBranch
  split
  · exact ht (h.of_ledger (s.ledger_goodFrameOn b))
  · exact h

theorem State.TagLawWith.onFrame {s : State} (h : s.TagLawWith []) (p : Port) (data : List Word) (take : State → State)
    (ht : (take s).TagLawWith []) : (s.onFrame p data take).TagLawWith [] := by
  unfold State.onFrame
  split
  · exact h.receiveBad p
  · exact ht

/-! ### Forwarder and tracker -/

/-- A head handed to the port leaves its queue, and nothing else of the ledger changes. -/
theorem State.ledger_sendHead (s : State) (b : Branch) (f : BranchFrame) : (s.sendHead b f).ledger = (s.popSlot b).ledger := by
  simp [State.sendHead]

theorem State.TagLawWith.failRecheck {s : State} {ts : List UTag} (h : s.TagLawWith ts) {b : Branch} {q : Slot}
    {rest : List Slot} (hq : (s.br b).queue = q :: rest) : (s.failRecheck b q).TagLawWith ts := by
  have answered := State.TagLawWith.answer ((h.popSlot hq).of_ledger (State.ledger_updBr _ b
    (fun u => { u with forwarder := { u.forwarder with recheck := u.forwarder.recheck + 1 } }) rfl)) .absent
  exact answered.of_ledger (State.ledger_judgeDrain _ b)

/-- A tagged head passes from its queue to a FREE entry (R48, R64). -/
theorem State.TagLawWith.issueTagged {s : State} {ts : List UTag} (h : s.TagLawWith ts) {b : Branch} {q : Slot}
    {rest : List Slot} (hq : (s.br b).queue = q :: rest) {k : TaggedKind} {ut : UTag} (hh : q.hdr = .tagged k ut) (t : BTag)
    {e : EntryIx} (he : s.entry e = .free) : (s.issueTagged b q k ut t e).TagLawWith ts := by
  have popped := h.popSlot hq
  rw [hh] at popped
  refine State.TagLawWith.of_ledger ?_ (State.ledger_sendHead _ b _)
  exact State.TagLawWith.setEntry (s := s.popSlot b) (x := []) popped e (.waiting _ ut _) (by
    rw [show (s.popSlot b).entry e = .free from he]
    simp [PendingEntry.tags, hdrTags])

theorem State.TagLawWith.issueHead {s : State} {ts : List UTag} (h : s.TagLawWith ts) (b : Branch) :
    (s.issueHead b).TagLawWith ts := by
  unfold State.issueHead
  split
  · exact h
  · rename_i q rest hq
    split
    · split
      · rename_i hh
        have popped := h.popSlot hq
        rw [hh] at popped
        split
        · refine State.TagLawWith.of_ledger ?_ (State.ledger_judgeDrain _ b)
          exact popped.of_ledger (s.ledger_sendHead b _)
        · exact h.failRecheck hq
      · rename_i k ut hh
        split
        · exact h
        · rename_i t e hroom
          split
          · refine h.issueTagged hq hh t ?_
            unfold State.issueRoom at hroom
            split at hroom
            · split at hroom <;> simp at hroom
              rename_i _ _ _ hfree
              exact hroom.2 ▸ ((s.freeEntry_some _).1 hfree).1
            · exact nomatch hroom
          · exact h.failRecheck hq
    · exact h

theorem State.TagLawWith.ageSlots {s : State} {ts : List UTag} (h : s.TagLawWith ts) (b : Branch) :
    (s.ageSlots b).TagLawWith ts := by
  refine State.TagLawWith.of_ledger (State.TagLawWith.answerAll ?_ .timeout) (State.ledger_judgeDrain _ b)
  refine State.TagLawWith.updBr (y := []) h b _ ?_
  rw [List.flatMap_map, ← List.flatMap_append]
  exact (List.filter_append_perm _ _).flatMap_right _

theorem State.TagLawWith.passUpward {s : State} {ts : List UTag} {ut : UTag} (h : s.TagLawWith (ut :: ts)) (c : Carried)
    (status detail : Byte) (data : List Word) : (s.passUpward c ut status detail data).TagLawWith ts := by
  unfold State.passUpward
  split
  · exact h.placeReply _ _ _
  · exact (h.withTracker _).placeReply _ _ _

/-- A WAITING entry that is freed, or becomes ORPHANED, gives its request to the hand. -/
theorem State.TagLawWith.unwait {s : State} {ts : List UTag} (h : s.TagLawWith ts) {e : EntryIx} {c : Carried} {ut : UTag}
    {d : Time} (he : s.entry e = .waiting c ut d) {n : PendingEntry} (hn : n.tags = []) :
    (s.setEntry e n).TagLawWith (ut :: ts) :=
  State.TagLawWith.setEntry (x := [ut]) (y := []) h e n (by rw [he, hn]; exact .refl _)

/-- An ORPHANED entry is freed. -/
theorem State.TagLawWith.freeOrphan {s : State} {ts : List UTag} (h : s.TagLawWith ts) {e : EntryIx} {c : Carried}
    {d : Time} {st : Status} (he : s.entry e = .orphaned c d st) : (s.setEntry e .free).TagLawWith ts :=
  State.TagLawWith.setEntry (x := []) (y := []) h e .free (by simp [he, PendingEntry.tags])

theorem State.TagLawWith.takeReply {s : State} {ts : List UTag} (h : s.TagLawWith ts) (b : Branch) (tag : UTag)
    (status detail : Byte) (data : List Word) : (s.takeReply b tag status detail data).TagLawWith ts := by
  unfold State.takeReply
  split
  · exact h.withTracker _
  · split
    · exact h
    · rename_i he
      exact ((h.unwait he rfl).passUpward _ _ _ _).of_ledger (State.ledger_judgeDrain _ b)
    · rename_i he
      exact (h.freeOrphan he).withTracker _

theorem State.TagLawWith.replyTimedOut {s : State} {ts : List UTag} (h : s.TagLawWith ts) {e : EntryIx} {c : Carried}
    {ut : UTag} {d : Time} (he : s.entry e = .waiting c ut d) : (s.replyTimedOut e c ut).TagLawWith ts := by
  have orphaned := h.unwait he (n := .orphaned c (s.orphanDeadline c.branch) .timeout) rfl
  exact State.TagLawWith.of_ledger ((orphaned.withTracker _).placeReply .timeout 0 []) (State.ledger_judgeDrain _ _)


/-! ### Chain controller and link -/

@[simp] theorem State.ledger_assignRange (s : State) (b : Branch) (p : Position) (m : Member) (base : Word) :
    (s.assignRange b p m base).ledger = s.ledger := by
  simp [State.assignRange]

@[simp] theorem State.ledger_placeMember (s : State) (b : Branch) (p : Position) (m : Member) :
    (s.placeMember b p m).ledger = s.ledger := by
  unfold State.placeMember; split <;> simp

@[simp] theorem State.ledger_takeDescriptorAt (s : State) (b : Branch) (p : Position) (m : Member) :
    (s.takeDescriptorAt b p m).ledger = s.ledger := by
  unfold State.takeDescriptorAt
  cases s.record b p with
  | assigned | vacant | identified | unplaced => simp
  | lost old range => dsimp only; split <;> simp

@[simp] theorem State.ledger_takeDescriptor (s : State) (b : Branch) (m : Member) (hop : Byte) :
    (s.takeDescriptor b m hop).ledger = s.ledger := by
  unfold State.takeDescriptor
  split
  · split <;> simp
  · simp
  · simp

@[simp] theorem State.ledger_takeAssigned (s : State) (b : Branch) (hop : Byte) :
    (s.takeAssigned b hop).ledger = s.ledger := by
  unfold State.takeAssigned
  split
  · split <;> simp
  · simp
  · simp

@[simp] theorem State.ledger_takeEmpty (s : State) (b : Branch) : (s.takeEmpty b).ledger = s.ledger := by
  unfold State.takeEmpty; split <;> simp

@[simp] theorem State.ledger_takeMend (s : State) (b : Branch) : (s.takeMend b).ledger = s.ledger := by
  unfold State.takeMend; dsimp only; split <;> simp

@[simp] theorem State.ledger_clearSent (s : State) (b : Branch) : (s.clearSent b).ledger = s.ledger := by
  unfold State.clearSent; dsimp only; split <;> simp

@[simp] theorem State.ledger_discardAttention (s : State) : s.discardAttention.ledger = s.ledger := rfl

@[simp] theorem State.ledger_mergeNotice (s : State) (src : Source) (cs : CauseSet) :
    (s.mergeNotice src cs).ledger = s.ledger := rfl

@[simp] theorem State.ledger_takeAttention (s : State) (b : Branch) (code hop : Byte) :
    (s.takeAttention b code hop).ledger = s.ledger := by
  unfold State.takeAttention
  split
  · simp
  · split
    · split <;> simp
    · simp

@[simp] theorem State.ledger_branchEntersUp (s : State) (b : Branch) : (s.branchEntersUp b).ledger = s.ledger := by
  unfold State.branchEntersUp; dsimp only; split <;> simp

@[simp] theorem State.ledger_wakeByNeighbour (s : State) (b : Branch) : (s.wakeByNeighbour b).ledger = s.ledger := by
  unfold State.wakeByNeighbour; split <;> simp

@[simp] theorem State.ledger_receiveCredit (s : State) (b : Branch) (n : Byte) : (s.receiveCredit b n).ledger = s.ledger := by
  unfold State.receiveCredit
  dsimp only
  split
  · exact s.ledger_updBr b _ (by split <;> rfl)
  · simp

@[simp] theorem State.ledger_afterHush (s : State) (b : Branch) : (s.afterHush b).ledger = s.ledger := by
  unfold State.afterHush; split <;> simp

/-! ### The commands of the management unit -/

@[simp] theorem State.ledger_releaseRecord (s : State) (b : Branch) (p : Position) :
    (s.releaseRecord b p).ledger = s.ledger := by
  unfold State.releaseRecord
  cases s.record b p <;> simp

@[simp] theorem State.ledger_wakeBranch (s : State) (b : Branch) : (s.wakeBranch b).ledger = s.ledger := by
  unfold State.wakeBranch; dsimp only; split <;> simp

@[simp] theorem State.ledger_ackSelf (s : State) (cs : CauseSet) : (s.ackSelf cs).ledger = s.ledger := by
  unfold State.ackSelf
  dsimp only
  split
  · simp
  · split <;> simp

@[simp] theorem State.ledger_ackNotice (s : State) (src : Source) (cs : CauseSet) : (s.ackNotice src cs).ledger = s.ledger := by
  cases src with
  | self => exact s.ledger_ackSelf cs
  | attachment b p =>
    exact (State.ledger_updBr _ b (fun u => { u with wakeLatch := false }) rfl).trans (s.ledger_removeNotices _)

theorem State.TagLawWith.applyCommand {s : State} {ts : List UTag} (h : s.TagLawWith ts) (c : Command) :
    (s.applyCommand c).TagLawWith ts := by
  cases c with
  | enumerate b => exact h.of_ledger (s.ledger_startEnumeration b)
  | release b p => exact h.of_ledger (s.ledger_releaseRecord b p)
  | branchReset b => exact h.resetBranch b
  | dormant b => exact h.of_ledger ((State.ledger_judgeDrain _ b).trans (s.ledger_updBr b _ rfl))
  | wake b => exact h.of_ledger (s.ledger_wakeBranch b)
  | noticeAck src cs => exact h.of_ledger (s.ledger_ackNotice src cs)
  | clearCounters => exact h.of_ledger s.ledger_zeroCounters

theorem State.TagLawWith.applyRecord {s : State} {ts : List UTag} (h : s.TagLawWith ts) (r : MgmtRequest) (x : WordRecord) :
    (s.applyRecord r x).TagLawWith ts := by
  have named : ∀ c : Option Command, ((c.map fun c => s.applyCommand c).getD s).TagLawWith ts := fun c => by
    cases c with
    | none => exact h
    | some c => exact h.applyCommand c
  cases x with
  | unmapped | readOnly => exact h
  | interval => exact h.of_ledger rfl
  | globalCommand | branchCommand => exact named _
  | window i j => cases j <;> exact h.of_ledger rfl
  | config b j =>
    cases j with
    | zero => exact h.of_ledger (s.ledger_updBr b _ rfl)
    | succ => exact h

theorem State.TagLawWith.applyRecords {s : State} {ts : List UTag} (h : s.TagLawWith ts) (r : MgmtRequest)
    (xs : List WordRecord) : (xs.foldl (State.applyRecord r) s).TagLawWith ts := by
  induction xs generalizing s with
  | nil => exact h
  | cons x xs ih => exact ih (h.applyRecord r x)

theorem State.TagLawWith.countWrite {s : State} {ts : List UTag} (h : s.TagLawWith ts) (c : Option Command) :
    (s.countWrite c).TagLawWith ts := by
  unfold State.countWrite
  split
  · exact h.withMgmt _
  · exact h
  all_goals exact h.withMgmt _

theorem State.TagLawWith.carryOutWrite {s : State} {ts : List UTag} {r : MgmtRequest}
    (h : s.TagLawWith (hdrTags r.hdr ++ ts)) : (s.carryOutWrite r).TagLawWith ts := by
  unfold State.carryOutWrite
  split
  · exact (h.withMgmt _).answer _
  · exact ((h.applyRecords r _).countWrite _).answer .ok

/-- The request that the unit carries out is answered, if it is tagged (R202, R204, R206, R207). -/
theorem State.TagLawWith.carryOut {s : State} {ts : List UTag} {r : MgmtRequest} (h : s.TagLawWith (hdrTags r.hdr ++ ts)) :
    (s.carryOut r).TagLawWith ts := by
  unfold State.carryOut
  split
  · rename_i t hh
    rw [hh] at h
    exact State.TagLawWith.placeReply (h.withMgmt _) _ _ _
  · rename_i t hh
    rw [hh] at h
    exact State.TagLawWith.placeReply (h.withMgmt _) _ _ _
  · exact h.carryOutWrite
  · exact h.carryOutWrite

theorem State.TagLawWith.executeHead {s : State} {ts : List UTag} (h : s.TagLawWith ts) (row : MgmtRow) :
    (s.executeHead row).TagLawWith ts := by
  unfold State.executeHead
  split
  · exact h
  · rename_i r rest hq
    split
    · exact State.TagLawWith.carryOut (h.popMgmt hq).retestHeld
    · exact h

end Sys2Proof.Machine

namespace Sys2Proof.Machine

open Sys2Proof

/-! ### Every command keeps the law of tags -/

theorem execPowerOnReset_tagLaw {s t : State} {span1 span0 : Bool} (h : execPowerOnReset span1 span0 s = .next t) :
    t.TagLawWith [] := by
  obtain rfl := Host.Outcome.next.inj h
  have zeroed := s.tagLaw_linkReset.of_ledger (State.ledger_zeroCounters _)
  have started := zeroed.of_ledger (State.ledger_mapBranches _ (fun _ u => u.startPort s.linkReset.zeroCounters.now)
    fun _ _ => rfl)
  exact started.of_ledger rfl

section
variable {s t : State}

theorem execResetAsserted_tagLaw (hs : s.TagLawWith []) (h : execResetAsserted s = .next t) : t.TagLawWith [] := by
  obtain rfl := Host.Outcome.next.inj h
  have off := hs.of_ledger (s.ledger_mapBranches (fun _ u => { u with port := u.port.goOff, credit := 0, unsent := [] })
    fun _ _ => rfl)
  exact off.of_ledger rfl

/-- A frame on U that is sent is no request; an egress frame leaves its slot (R176, R177). -/
theorem execUCreditSent_tagLaw (hs : s.TagLawWith []) (h : execUCreditSent s = .next t) : t.TagLawWith [] := by
  obtain rfl := Host.Outcome.next.inj h
  split
  · exact hs.of_ledger rfl
  all_goals exact hs

theorem execUMemberFrameSent_tagLaw (hs : s.TagLawWith []) (h : execUMemberFrameSent s = .next t) : t.TagLawWith [] := by
  obtain rfl := Host.Outcome.next.inj h
  split
  · exact hs.of_ledger rfl
  · exact hs

theorem execEgressFrameSent_tagLaw (hs : s.TagLawWith []) (h : execEgressFrameSent s = .next t) : t.TagLawWith [] := by
  obtain rfl := Host.Outcome.next.inj h
  split
  · exact hs.move rfl rfl ((List.tail_sublist s.egress).countP_le) hs.2.2.2.2 (.refl _)
  · exact hs

theorem execUAssign_tagLaw {base : Word} (hs : s.TagLawWith []) (h : execUAssign base s = .next t) : t.TagLawWith [] := by
  obtain rfl := Host.Outcome.next.inj h
  refine hs.onU _ fun hg => ?_
  dsimp only
  split
  · unfold State.makeOwed
    dsimp only
    split
    · exact State.TagLawWith.of_ledger (hg.of_ledger rfl) (State.ledger_presentationDue _)
    · exact hg.of_ledger rfl
  · exact hg.of_ledger rfl

theorem execURelease_tagLaw {base : Word} (hs : s.TagLawWith []) (h : execURelease base s = .next t) : t.TagLawWith [] := by
  obtain rfl := Host.Outcome.next.inj h
  refine hs.onU _ fun hg => ?_
  dsimp only
  split
  · exact State.TagLawWith.retestHeld (hg.of_ledger rfl)
  · exact hg.of_ledger rfl

theorem execUHush_tagLaw (hs : s.TagLawWith []) (h : execUHush s = .next t) : t.TagLawWith [] := by
  obtain rfl := Host.Outcome.next.inj h
  exact hs.onU _ fun hg => State.TagLawWith.of_ledger (hg.of_ledger rfl) (State.ledger_signalWakeU _)

theorem execUnknownFrameDiscarded_tagLaw {p : Port} (hs : s.TagLawWith []) (h : execUnknownFrameDiscarded p s = .next t) :
    t.TagLawWith [] := by
  cases p with
  | u =>
    obtain rfl := Host.Outcome.next.inj h
    exact hs.onU _ fun hg => hg.of_ledger rfl
  | branch b =>
    obtain rfl := Host.Outcome.next.inj h
    exact hs.onBranch b _ fun hg => hg.of_ledger (State.ledger_discardOn _ b)

theorem execTrainingAttemptTimeout_tagLaw {p : Port} (hs : s.TagLawWith []) (h : execTrainingAttemptTimeout p s = .next t) :
    t.TagLawWith [] := by
  obtain rfl := Host.Outcome.next.inj h
  split
  · exact hs.runOut _ _ fun ha => ha.of_ledger (State.ledger_updPort _ p _)
  all_goals exact hs

theorem execLinkEntersUp_tagLaw {p : Port} (hs : s.TagLawWith []) (h : execLinkEntersUp p s = .next t) : t.TagLawWith [] := by
  obtain rfl := Host.Outcome.next.inj h
  split
  · cases p with
    | u => exact hs.of_ledger rfl
    | branch b => exact hs.of_ledger (s.ledger_branchEntersUp b)
  · exact hs

theorem execWakeTaken_tagLaw {p : Port} (hs : s.TagLawWith []) (h : execWakeTaken p s = .next t) : t.TagLawWith [] := by
  obtain rfl := Host.Outcome.next.inj h
  split
  · cases p with
    | u => exact hs.of_ledger rfl
    | branch b => exact hs.of_ledger (s.ledger_wakeByNeighbour b)
  · exact hs

theorem execQuietRelistenTimeout_tagLaw {b : Branch} {still : Bool} (hs : s.TagLawWith [])
    (h : execQuietRelistenTimeout b still s = .next t) : t.TagLawWith [] := by
  obtain rfl := Host.Outcome.next.inj h
  split
  · refine hs.runOut _ _ fun ha => ?_
    have stopped := ha.of_ledger
      (State.ledger_updBr _ b (fun u => { u with port := { u.port with relistenTimer := none } }) rfl)
    dsimp only
    split
    · exact stopped.of_ledger (State.ledger_wakeByNeighbour _ b)
    · exact stopped
  all_goals exact hs

theorem execCredit_tagLaw {b : Branch} {n : Byte} (hs : s.TagLawWith []) (h : execCredit b n s = .next t) :
    t.TagLawWith [] := by
  obtain rfl := Host.Outcome.next.inj h
  split
  · exact hs.of_ledger (by simp)
  · exact hs

theorem execAgeDeadlineExpiry_tagLaw {b : Branch} (hs : s.TagLawWith []) (h : execAgeDeadlineExpiry b s = .next t) :
    t.TagLawWith [] := by
  obtain rfl := Host.Outcome.next.inj h
  split
  · exact hs
  · exact hs.runOut _ _ fun ha => ha.ageSlots b

theorem execReplyDeadlineExpiry_tagLaw {e : EntryIx} (hs : s.TagLawWith []) (h : execReplyDeadlineExpiry e s = .next t) :
    t.TagLawWith [] := by
  obtain rfl := Host.Outcome.next.inj h
  split
  · rename_i he
    exact hs.runOut _ _ fun ha => ha.replyTimedOut he
  all_goals exact hs

theorem execOrphanDeadlineExpiry_tagLaw {e : EntryIx} (hs : s.TagLawWith []) (h : execOrphanDeadlineExpiry e s = .next t) :
    t.TagLawWith [] := by
  obtain rfl := Host.Outcome.next.inj h
  split
  · rename_i he
    exact hs.runOut _ _ fun ha => State.TagLawWith.withTracker (ha.freeOrphan he) _
  all_goals exact hs

theorem State.TagLawWith.identifyTimeout {ts : List UTag} (hs : s.TagLawWith ts) (b : Branch) :
    (s.identifyTimeout b).TagLawWith ts := by
  unfold State.identifyTimeout
  split
  · exact hs.runOut _ _ fun ha => ha.of_ledger (by simp)
  · exact hs.runOut _ _ fun ha => ha.of_ledger (by simp)
  · exact hs

theorem execWakeTimerExpiry_tagLaw {b : Branch} (hs : s.TagLawWith []) (h : execWakeTimerExpiry b s = .next t) :
    t.TagLawWith [] := by
  obtain rfl := Host.Outcome.next.inj h
  split
  · exact hs.runOut _ _ fun ha => ha.wakeFails b
  all_goals exact hs

theorem execRePresentTimerExpiry_tagLaw (hs : s.TagLawWith []) (h : execRePresentTimerExpiry s = .next t) :
    t.TagLawWith [] := by
  obtain rfl := Host.Outcome.next.inj h
  split
  · exact hs.runOut _ _ fun ha => State.TagLawWith.of_ledger (ha.of_ledger rfl) (State.ledger_presentationDue _)
  · exact hs

/-- The frame at the head of a branch port's order that is sent is no part of the ledger. -/
theorem execBranchClearSent_tagLaw {b : Branch} (hs : s.TagLawWith []) (h : execBranchClearSent b s = .next t) :
    t.TagLawWith [] := by
  obtain rfl := Host.Outcome.next.inj h
  split
  · split
    · exact hs.of_ledger (by simp)
    · exact hs
  · split
    · exact hs.of_ledger (by simp)
    · exact hs
  · exact hs

theorem execHushSent_tagLaw {b : Branch} (hs : s.TagLawWith []) (h : execHushSent b s = .next t) : t.TagLawWith [] := by
  obtain rfl := Host.Outcome.next.inj h
  split
  · split
    · exact hs.of_ledger (by simp)
    · exact hs
  · exact hs

theorem execBranchFrameSent_tagLaw {b : Branch} (hs : s.TagLawWith []) (h : execBranchFrameSent b s = .next t) :
    t.TagLawWith [] := by
  obtain rfl := Host.Outcome.next.inj h
  have leaves : ∀ rest, State.TagLawWith
      (if (s.br b).port.link = .up then s.updBr b fun u => { u with unsent := rest } else s) [] := fun rest => by
    split
    · exact hs.of_ledger (s.ledger_updBr b _ rfl)
    · exact hs
  cases (s.br b).unsent with
  | nil => exact hs
  | cons f rest =>
    cases f with
    | clear | resetClear | hush => exact hs
    | tagged | post | identify | assign | release => exact leaves rest

/-- A happening with one outcome. -/
theorem tagLaw_of_next {x : State} (h : (.next x : Host.Outcome State Fault Refusal) = .next t) (k : x.TagLawWith []) :
    t.TagLawWith [] :=
  Host.Outcome.next.inj h ▸ k

/-- Every command keeps the law of tags. -/
theorem exec_tagLaw {c : Instr} (hs : s.TagLawWith []) (h : exec c s = .next t) : t.TagLawWith [] := by
  cases c with
  | powerOnReset => exact execPowerOnReset_tagLaw h
  | resetAsserted => exact execResetAsserted_tagLaw hs h
  | requestFrame => exact tagLaw_of_next h (hs.onFrame _ _ _ (hs.onU _ fun hg => hg.receiveRequest _))
  | uCreditSent => exact execUCreditSent_tagLaw hs h
  | classifierTake => exact tagLaw_of_next h hs.takeHead
  | uIdentify | uUnexpectedFrame | uCreditReceived => exact tagLaw_of_next h (hs.onU _ fun hg => hg.of_ledger rfl)
  | uAssign => exact execUAssign_tagLaw hs h
  | uRelease => exact execURelease_tagLaw hs h
  | uClear => exact tagLaw_of_next h (hs.onU _ fun _ => State.tagLaw_linkReset _)
  | uHush => exact execUHush_tagLaw hs h
  | egressFrameSent => exact execEgressFrameSent_tagLaw hs h
  | uMemberFrameSent => exact execUMemberFrameSent_tagLaw hs h
  | badFrame p => exact tagLaw_of_next h (hs.receiveBad p)
  | farEndTrains p | lossOfSignal p => exact tagLaw_of_next h (hs.departure p)
  | unknownFrameDiscarded => exact execUnknownFrameDiscarded_tagLaw hs h
  | branchAwayFrame b => exact tagLaw_of_next h (hs.onBranch b _ fun hg => hg.of_ledger (State.ledger_discardOn _ b))
  | trainingAttemptTimeout => exact execTrainingAttemptTimeout_tagLaw hs h
  | linkEntersUp => exact execLinkEntersUp_tagLaw hs h
  | wakeTaken => exact execWakeTaken_tagLaw hs h
  | quietRelistenTimeout => exact execQuietRelistenTimeout_tagLaw hs h
  | credit => exact execCredit_tagLaw hs h
  | issue b => exact tagLaw_of_next h (hs.issueHead b)
  | ageDeadlineExpiry => exact execAgeDeadlineExpiry_tagLaw hs h
  | reply b => exact tagLaw_of_next h (hs.onFrame _ _ _ (hs.onBranch b _ fun hg => hg.takeReply b _ _ _ _))
  | replyDeadlineExpiry => exact execReplyDeadlineExpiry_tagLaw hs h
  | orphanDeadlineExpiry => exact execOrphanDeadlineExpiry_tagLaw hs h
  | descriptor b => exact tagLaw_of_next h (hs.onBranch b _ fun hg => hg.of_ledger (State.ledger_takeDescriptor _ b _ _))
  | assigned b => exact tagLaw_of_next h (hs.onBranch b _ fun hg => hg.of_ledger (State.ledger_takeAssigned _ b _))
  | empty b => exact tagLaw_of_next h (hs.onBranch b _ fun hg => hg.of_ledger (State.ledger_takeEmpty _ b))
  | identifyTimerExpiry b => exact tagLaw_of_next h (hs.identifyTimeout b)
  | chainbreak b => exact tagLaw_of_next h (hs.onBranch b _ fun hg => hg.takeBreak b _)
  | chainmend b => exact tagLaw_of_next h (hs.onBranch b _ fun hg => hg.of_ledger (State.ledger_takeMend _ b))
  | attention b => exact tagLaw_of_next h (hs.onBranch b _ fun hg => hg.of_ledger (State.ledger_takeAttention _ b _ _))
  | branchClearSent => exact execBranchClearSent_tagLaw hs h
  | hushSent => exact execHushSent_tagLaw hs h
  | branchFrameSent => exact execBranchFrameSent_tagLaw hs h
  | drainComplete b => exact tagLaw_of_next h (hs.of_ledger (s.ledger_judgeDrain b))
  | wakeTimerExpiry => exact execWakeTimerExpiry_tagLaw hs h
  | rePresentTimerExpiry => exact execRePresentTimerExpiry_tagLaw hs h
  | managementRead | managementWrite | windowEntryWrite | configurationWrite | rePresentIntervalWrite | managementSwap
  | enumerate | release | branchReset | dormant | wake | noticeAck | clearCounters =>
    exact tagLaw_of_next h (hs.executeHead _)

end

/-- Settles O54: a step is a command, on a state whose ledger is the same, or a tick. -/
theorem stepKeepsTagLaw : Obligations.StepKeepsTagLaw := by
  intro s t hs h
  refine t.tagLaw_iff.2 ?_
  have hs := s.tagLaw_iff.1 hs
  unfold step at h
  split at h
  · unfold State.idle at h
    split at h
    · exact exec_tagLaw hs h
    · exact tagLaw_of_next h (hs.of_ledger rfl)
  · rename_i c rest _
    have front : State.TagLawWith { s with pending := rest } [] := hs.of_ledger rfl
    exact exec_tagLaw front h

end Sys2Proof.Machine

namespace Sys2Proof.Machine

open Sys2Proof

/-! ### Frames that arrive on U -/

/-- A good frame that arrives while U is UP is taken, and makes the count of bad frames in a row 0 (R187). -/
theorem State.onU_of_up {s : State} (h : s.u.port.link = .up) (take : State → State) :
    s.onU take = take { s with u := { s.u with port := { s.u.port with badRun := 0 } } } := by
  rw [State.onU, if_pos h, State.goodFrameOnU, LinkPort.goodFrame, if_pos h]

/-- A frame that arrives while U is not UP is not taken (R185; assumption 8). -/
theorem State.onU_of_not_up {s : State} (h : s.u.port.link ≠ .up) (take : State → State) : s.onU take = s :=
  if_neg h

/-! ### Link resets (R171 to R173) -/

/-- A branch after a link reset is as after power-on, but for its counters and for the attempt that its port may be making
(R144, R173). -/
theorem BranchUnit.afterLinkReset_eq (t : Time) (u : BranchUnit) : u.afterLinkReset t =
    { BranchUnit.afterPowerOn t with
      controller := u.controller
      forwarder := u.forwarder
      chain := u.chain
      port := { u.port with
        link := .training
        badRun := 0
        relistenTimer := none
        attemptTimer := if u.port.link = .training then u.port.attemptTimer else some (t + Config.trainingAttempt) } } := by
  by_cases h : u.port.link = .training <;>
    simp [BranchUnit.afterLinkReset, BranchUnit.afterPowerOn, LinkPort.atReset, LinkPort.train, h]

theorem State.linkReset_br (s : State) (b : Branch) : s.linkReset.br b = (s.br b).afterLinkReset s.now :=
  mapTable_get _ _ _

/-- Settles O6: U_CLEAR is taken as a good frame, and is the link reset. -/
theorem clearFromParentIsLinkReset : Obligations.ClearFromParentIsLinkReset := by
  intro s hup
  refine ⟨_, congrArg Host.Outcome.next (State.onU_of_up hup _), fun b => ?_, rfl⟩
  rw [State.linkReset_br]
  exact BranchUnit.afterLinkReset_eq _ _

/-- Settles O7: each departure of U is the link loss, the third bad frame in a row with its count besides. -/
theorem upstreamLinkLossIsLinkReset : Obligations.UpstreamLinkLossIsLinkReset := by
  intro s hup hpin
  have departs : s.departure .u = s.uLinkLoss := if_pos ⟨hup, rfl⟩
  refine ⟨_, congrArg Host.Outcome.next departs, congrArg Host.Outcome.next departs, fun hrun => ?_, fun b => ?_, ?_⟩
  · show Host.Outcome.next (s.receiveBad .u) = _
    have third : s.receiveBad .u =
        State.uLinkLoss ((s.updPort .u LinkPort.countBad).updPort .u fun q => { q with badRun := s.u.port.badRun + 1 }) := by
      unfold State.receiveBad
      simp [State.portOf, hup, State.hushWindow, hrun, Config.badRunLimit, State.leaveUp]
    rw [third]
    simp [State.uLinkLoss, State.trainU, State.trained, State.linkReset, State.updPort, hpin, LinkPort.train,
      LinkPort.countBad]
  · refine (State.linkReset_br { s with upstream := { s.upstream with linkLosses := s.upstream.linkLosses + 1 } } b).trans ?_
    exact BranchUnit.afterLinkReset_eq _ _
  · simp [State.uLinkLoss, State.trainU, State.trained, State.linkReset, hpin, LinkPort.train, Config.intervalDefault]

end Sys2Proof.Machine

namespace Sys2Proof.Machine

open Sys2Proof

/-! ### The retest of the held request (R33) -/

theorem State.retestHeld_of_none {s : State} (h : s.held = false) : s.retestHeld = s := by
  rw [State.retestHeld, h]

theorem State.retestHeld_of_held {s : State} {r : Request} {rest : List Request} (h : s.held = true)
    (hr : s.ingress = r :: rest) : s.retestHeld = State.settle r (s.route r) { s with held := false } := by
  rw [State.retestHeld, h, hr]

/-- A well-formed request that lies in the management block is one for the management unit (R32). -/
theorem State.route_inBlock {s : State} {r : Request} {off : Nat} (h : s.startsAt r off)
    (hend : off + 4 * r.count.toNat ≤ Config.managementBytes) : s.route r = .manage off := by
  have hwords : r.count.toNat ≠ 0 := fun e => h.1 (.inl e)
  rw [State.route_startsAt h, if_pos (by omega), if_neg (by omega)]

/-! ### The words that a management READ returns (R204) -/

/-- The counter of management READs is word 18 of the general counters (R213). -/
theorem State.generalCounterList_withReads (s : State) (n : Word) :
    State.generalCounterList { s with mgmt := { s.mgmt with reads := n } } = s.generalCounterList.set 18 n :=
  rfl

/-- The word at 0x748 shows the counter of management READs, and no other word does (R213). -/
theorem State.readWord_withReads (s : State) (n : Word) (off : Nat) :
    State.readWord { s with mgmt := { s.mgmt with reads := n } } off =
      if off / 4 = 0x748 / 4 then n else s.readWord off := by
  by_cases hin : 0x700 ≤ off ∧ off < 0x800
  · have counters : ∀ t : State, t.readWord off = t.generalCounterList.getD ((off - 0x700) / 4) 0 := fun t => by
      unfold State.readWord
      rw [if_neg (by omega), if_neg (by omega), if_neg (by omega), if_neg (by omega), if_neg (by omega), if_neg (by omega),
        if_pos (by omega)]
    rw [counters, counters, State.generalCounterList_withReads, List.getD_eq_getElem?_getD, List.getElem?_set]
    have hlen : 18 < s.generalCounterList.length := of_decide_eq_true rfl
    by_cases h18 : (off - 0x700) / 4 = 18
    · rw [if_pos h18.symm, if_pos hlen, if_pos (by omega)]; rfl
    · rw [if_neg (Ne.symm h18), if_neg (by omega), List.getD_eq_getElem?_getD]
  · rw [if_neg (by omega)]
    unfold State.readWord
    iterate 6 refine ite_congr rfl (fun _ => rfl) fun _ => ?_
    exact ite_congr rfl (fun _ => absurd ⟨by omega, by omega⟩ hin) fun _ => rfl

/-- Settles O43: the READ's words are those of the state in which it is carried out, but for the reads counter; the retest at
the head's leaving finds a management request again. -/
theorem managementReadReturnsTheWords : Obligations.ManagementReadReturnsTheWords := by
  refine ⟨fun s t offset count data hhead v hv => ?_, fun s g hg => ⟨fun hheld => ?_, ?_⟩⟩
  · subst hv
    have words : ∀ i, i < count →
        (s.afterHeadLeaves.readWords ⟨.tagged .read t, offset, count, data⟩)[i]? =
          some (if (offset + 4 * i) / 4 = 0x748 / 4 then
            (if Config.readShowsItself then s.afterHeadLeaves.mgmt.reads + 1 else s.afterHeadLeaves.mgmt.reads)
          else s.afterHeadLeaves.readWord (offset + 4 * i)) := fun i hi => by
      simp only [State.readWords, List.getElem?_map, List.getElem?_range hi, Option.map_some, State.readWord_withReads]
    refine ⟨s.afterHeadLeaves.readWords ⟨.tagged .read t, offset, count, data⟩, by simp [State.readWords],
      fun i hi ho => ?_, fun i hi ho => ?_, ?_⟩
    · rw [words i hi, if_neg ho]
    · rw [words i hi, if_pos ho]
      split
      · exact .inr rfl
      · exact .inl rfl
    · exact congrArg Host.Outcome.next (State.executeHead_eq hhead rfl)
  · subst hg
    exact State.retestHeld_of_none hheld
  · intro r rest off hheld hing hstart hend hroom
    have hstart : g.startsAt r off := hg ▸ hstart
    have retested : s.afterHeadLeaves = State.settle r (.manage off) { g with held := false } := by
      rw [← State.route_inBlock hstart hend, hg]
      exact State.retestHeld_of_held hheld hing
    rw [retested, hg]
    refine (if_pos hroom).trans ?_
    rw [State.dropIngressHead_eq, hing]
    rfl

end Sys2Proof.Machine

namespace Sys2Proof.Machine

open Sys2Proof

/-! ### A request that arrives, a head that waits, a REPLY that is placed -/

/-- A frame of at most 16 data words is taken as it is (R187). -/
theorem State.onFrame_of_short {data : List Word} (h : data.length ≤ Config.maxWords) (p : Port) (take : State → State)
    (s : State) : s.onFrame p data take = take s :=
  if_neg (Nat.not_lt.2 h)

/-- Settles O8: a frame of at most 16 data words is taken against credit, or overruns; a longer one is a bad frame. -/
theorem requestFrameJoinsOrOverruns : Obligations.RequestFrameJoinsOrOverruns := by
  intro hdr addr count data s
  refine ⟨fun hup hlen => congrArg Host.Outcome.next ?_, fun hlong => congrArg Host.Outcome.next (if_pos hlong)⟩
  rw [State.onFrame_of_short hlen, State.onU_of_up hup]
  rfl

/-- The take of a tagged head: it waits for an egress slot, then for its tag (R24, R26). -/
theorem State.takeHead_tagged {s : State} {r : Request} {rest : List Request} {k : TaggedKind} {t : UTag}
    (hheld : s.held = false) (hing : s.ingress = r :: rest) (hh : r.hdr = .tagged k t) : s.takeHead =
      if s.reservations + s.replyFrames < Config.replySlots then
        if s.tagReg.contains t then s.discardClash else (s.accept t).settle r (s.classify r)
      else s := by
  unfold State.takeHead
  rw [hheld, hing]
  dsimp only
  rw [hh]

/-- Settles O22: a head that may not be taken leaves the state as it is; a tag clash drops the head and raises TAGCLASH. -/
theorem headWaitsOrClashes : Obligations.HeadWaitsOrClashes := by
  refine fun s => ⟨fun h => congrArg Host.Outcome.next ?_, fun r rest k t hheld hing hh hclash hroom =>
    congrArg Host.Outcome.next ?_⟩
  · cases hheld : s.held with
    | true => rw [State.takeHead, hheld]
    | false =>
      rcases h with h | h | ⟨r, rest, k, t, hing, hh, hfull⟩
      · rw [State.takeHead, hheld, h]
      · exact nomatch hheld.symm.trans h
      · exact (State.takeHead_tagged hheld hing hh).trans (if_neg (Nat.not_lt.2 hfull))
  · have taken : s.takeHead = s.discardClash :=
      (State.takeHead_tagged hheld hing hh).trans ((if_pos hroom).trans (if_pos (List.contains_iff_mem.2 hclash)))
    rw [taken]
    exact congrArg (State.raise .tagclash) (State.dropIngressHead_eq_headGone (s := { s with classifier := _ }) hheld)

/-- Settles O34: the tag and the reservation go, then the frame is placed, and a QUIET U is woken by it. -/
theorem placingAReply : Obligations.PlacingAReply := by
  intro ut st detail data s hpin a ha
  subst ha
  exact ⟨fun hq => State.placeEgress_of_not_quiet _ _ hq, fun hq => State.placeEgress_of_quiet _ _ hq hpin⟩

/-! ### Training and the entry into UP (R183) -/

/-- A branch in DOWN or WAKING whose link enters UP is ACTIVE, and sends the CLEAR that it owes first (R125, R127, R137). -/
theorem State.branchEntersUp_eq {s : State} {b : Branch} (h : (s.br b).state = .down ∨ ∃ d, (s.br b).state = .waking d) :
    s.branchEntersUp b = s.setBr b { s.br b with
      state := .active
      port := (s.br b).port.goUp
      credit := 0
      unsent := (s.br b).unsent ++ if (s.br b).clearOwed then [.clear] else [] } := by
  unfold State.branchEntersUp
  cases hc : (s.br b).clearOwed <;> rcases h with h | ⟨d, h⟩ <;>
    simp [State.updBr_eq, State.hand_eq, LinkPort.goUp, h, hc]

/-- Settles O15: the attempt timer restarts at its running out, and a link in TRAINING that enters UP starts afresh. -/
theorem trainingIsRepeatedUntilUp : Obligations.TrainingIsRepeatedUntilUp := by
  refine fun s => ⟨fun p d hl ht => ?_, fun hl => congrArg Host.Outcome.next (if_pos hl), fun b hl hs => ?_⟩
  · have attempt : exec (.trainingAttemptTimeout p) s = .next (s.runOut d fun t =>
        t.updPort p fun q => { q.countAttempt with attemptTimer := some (t.now + Config.trainingAttempt) }) := by
      show execTrainingAttemptTimeout p s = _
      rw [execTrainingAttemptTimeout, hl, ht]
    rw [attempt]
    refine ⟨fun h => ?_, fun h => ?_⟩
    · rw [State.runOut_of_reaches s d _ h]; rfl
    · rw [State.runOut_of_not s d _ h]
  · refine congrArg Host.Outcome.next ((if_pos hl).trans ?_)
    exact State.branchEntersUp_eq hs

end Sys2Proof.Machine

namespace Sys2Proof.Machine

open Sys2Proof

/-! ### The frame that U begins, and the three commands of a sending (R177, R191) -/

/-- A CREDIT on the line: it is the next frame, U_CREDIT_SENT sends it, and the other two commands find no frame of theirs. -/
theorem exec_sent_of_credit {s : State} {n : Nat} (h : s.uBegun.sending = some (.credit n)) :
    exec .uCreditSent s =
        .next { s with u := { s.uBegun with granted := s.u.granted + n, owed := s.u.owed - n, sending := none } } ∧
      exec .uMemberFrameSent s = .next s ∧ exec .egressFrameSent s = .next s ∧
      s.nextFrame .u = some (.credit (BitVec.ofNat 8 n)) := by
  simp [exec, execUCreditSent, execUMemberFrameSent, execEgressFrameSent, State.nextFrame, State.nextOnU, State.onLineU, h]

/-- A member frame on the line. -/
theorem exec_sent_of_member {s : State} (h : s.uBegun.sending = some .member) :
    exec .uMemberFrameSent s = .next { s with u := { s.uBegun with unsent := s.u.unsent.tail, sending := none } } ∧
      exec .uCreditSent s = .next s ∧ exec .egressFrameSent s = .next s ∧
      s.nextFrame .u = s.u.unsent.head?.map fun f => f.frame.wire := by
  simp [exec, execUCreditSent, execUMemberFrameSent, execEgressFrameSent, State.nextFrame, State.nextOnU, State.onLineU, h]

/-- An egress frame on the line. -/
theorem exec_sent_of_egress {s : State} (h : s.uBegun.sending = some .egress) :
    exec .egressFrameSent s = .next { s with egress := s.egress.tail, u := { s.uBegun with sending := none } } ∧
      exec .uCreditSent s = .next s ∧ exec .uMemberFrameSent s = .next s ∧
      s.nextFrame .u = s.egress.head?.map EgressFrame.wire := by
  simp [exec, execUCreditSent, execUMemberFrameSent, execEgressFrameSent, State.nextFrame, State.nextOnU, State.onLineU, h]

/-- No frame on the line. -/
theorem exec_sent_of_none {s : State} (h : s.uBegun.sending = none) :
    exec .uCreditSent s = .next s ∧ exec .uMemberFrameSent s = .next s ∧ exec .egressFrameSent s = .next s ∧
      s.nextFrame .u = none := by
  simp [exec, execUCreditSent, execUMemberFrameSent, execEgressFrameSent, State.nextFrame, State.nextOnU, State.onLineU, h]

theorem State.uBegun_of_sending {s : State} (h : s.u.sending ≠ none) : s.uBegun = s.u :=
  UPort.begin_of_sending h

/-- A U that sends nothing and is UP begins the CREDIT whose turn it is. -/
theorem State.uBegun_of_creditTurn {s : State} (hup : s.u.port.link = .up) (hs : s.u.sending = none)
    (hc : s.u.creditTurn = true) :
    s.uBegun = { s.u with sending := some (.credit s.u.owed), unsent := s.u.aheadOfCredit } := by
  simp [State.uBegun, UPort.begin, hup, hs, hc]

/-- A member frame begun, or next in its turn, is the one on the line. -/
theorem State.uBegun_of_member {s : State} (hne : s.u.unsent ≠ [])
    (h : s.u.sending = some .member ∨ (s.u.port.link = .up ∧ s.u.sending = none ∧ s.u.creditTurn = false)) :
    s.uBegun = { s.u with sending := some .member } := by
  rcases h with h | ⟨hup, hs, hc⟩
  · rw [State.uBegun_of_sending (by simp [h]), ← h]
  · simp [State.uBegun, UPort.begin, hup, hs, hc, hne]

/-- An egress frame begun, or next in its turn, is the one on the line. -/
theorem State.uBegun_of_egress {s : State} (hne : s.egress ≠ [])
    (h : s.u.sending = some .egress ∨ (s.u.port.link = .up ∧ s.u.sending = none ∧ s.u.owed = 0 ∧ s.u.unsent = [])) :
    s.uBegun = { s.u with sending := some .egress } := by
  rcases h with h | ⟨hup, hs, ho, hu⟩
  · rw [State.uBegun_of_sending (by simp [h]), ← h]
  · simp [State.uBegun, UPort.begin, UPort.creditTurn, hup, hs, ho, hu, hne]

/-- With nothing that waits, or while it is not UP, U begins nothing. -/
theorem State.uBegun_of_nothing {s : State} (hs : s.u.sending = none)
    (h : s.u.port.link ≠ .up ∨ (s.u.owed = 0 ∧ s.u.unsent = [] ∧ s.egress = [])) : s.uBegun = s.u := by
  rcases h with h | ⟨ho, hu, he⟩
  · exact State.uBegun_of_not_up h
  · simp [State.uBegun, UPort.begin, UPort.creditTurn, hs, ho, hu, he]

/-- A CREDIT is next where it is due and the head of the member frames, if there is one, was handed after it fell due. -/
theorem UPort.creditTurn_of_due {u : UPort} (ho : 0 < u.owed)
    (h : ∀ f rest, u.unsent = f :: rest → f.afterCredit = true) : u.creditTurn = true := by
  cases hu : u.unsent with
  | nil => simp [UPort.creditTurn, ho, hu]
  | cons f rest => simp [UPort.creditTurn, ho, hu, h f rest hu]

/-- It is not next where none is due, or a member frame stands before it. -/
theorem UPort.creditTurn_of_member {u : UPort} {f : HandedFrame} {rest : List HandedFrame} (hu : u.unsent = f :: rest)
    (h : f.afterCredit = false ∨ u.owed = 0) : u.creditTurn = false := by
  rcases h with h | h <;> simp [UPort.creditTurn, hu, h]

/-! ### The bytes of the frames that U sends (R214, R215) -/

/-- A number as bytes, the least significant first. -/
def lowBytes (n v : Nat) : List Byte :=
  (List.range n).map fun i => BitVec.ofNat 8 (v / 256 ^ i)

theorem wordBytes_eq (w : Word) : wordBytes w = lowBytes 4 w.toNat := by
  simp [wordBytes, lowBytes, BitVec.extractLsb', Nat.shiftRight_eq_div_pow, List.range_succ]

theorem halfBytes_eq (h : BitVec 16) : halfBytes h = lowBytes 2 h.toNat := by
  simp [halfBytes, lowBytes, BitVec.extractLsb', Nat.shiftRight_eq_div_pow, List.range_succ]

/-- The number of a status is its place in the list of R215. -/
theorem Status.code_of_place {n : Nat} {st : Status}
    (h : [Status.ok, .fault, .noroute, .denied, .bounds, .malformed, .absent, .busy, .lost, .timeout, .flushed, .badreply,
      .refused, .partialWrite, .badentry, .readonly][n]? = some st) : st.code = n := by
  obtain ⟨hn, rfl⟩ := List.getElem?_eq_some_iff.1 h
  have places : ∀ i : Fin 16, ([Status.ok, .fault, .noroute, .denied, .bounds, .malformed, .absent, .busy, .lost, .timeout,
      .flushed, .badreply, .refused, .partialWrite, .badentry, .readonly][i.val]).code = i.val := by decide
  exact places ⟨n, hn⟩

/-- The body of a REPLY that U sends. -/
theorem EgressFrame.reply_body (r : ReplyFrame) : (EgressFrame.reply r).wire.body =
    [0x05, r.tag.setWidth 8, BitVec.ofNat 8 r.status.code, r.detail] ++ r.data.flatMap fun w => lowBytes 4 w.toNat := by
  simp [EgressFrame.wire, WireFrame.body, WireFrame.code, WireFrame.tag, WireFrame.fixed, WireFrame.data, ← wordBytes_eq]

/-- The body of the DESCRIPTOR that U sends. -/
theorem MemberFrame.descriptor_body (d : OwnDescriptor) : (MemberFrame.descriptor d).wire.body =
    [0x11, 0] ++ lowBytes 2 d.cls.toNat ++ lowBytes 4 d.identity.toNat ++
      [BitVec.ofNat 8 d.sizeExp, flagsByte d.flags, d.hop] := by
  simp [MemberFrame.wire, WireFrame.body, WireFrame.code, WireFrame.tag, WireFrame.fixed, WireFrame.data, ← wordBytes_eq,
    ← halfBytes_eq]

theorem flagsByte_eq (f : MemberFlags) : flagsByte f = BitVec.ofNat 8 ((if f.attentionCapable then 1 else 0) +
    (if f.sleepCapable then 2 else 0) + (if f.concentrator then 4 else 0)) := by
  rcases f with ⟨a, b, c⟩
  cases a <;> cases b <;> cases c <;> rfl

/-! ### The statements about U -/

/-- Settles O9: each clause is one case of what U begins, one layout, or a frame that U does not take. -/
theorem whatPassesOnU : Obligations.WhatPassesOnU := by
  refine ⟨fun s => ⟨fun n hs => ?_, fun hup hs ho hturn behind hb => ?_, fun h rest hu hs => ?_, fun f rest he hs => ?_,
    fun hs hn => ?_⟩, fun low hlow => ?_, fun s hdown => ?_⟩
  · have begun : s.uBegun = s.u := State.uBegun_of_sending (by simp [hs])
    obtain ⟨credit, member, egress, next⟩ := exec_sent_of_credit (begun ▸ hs)
    exact ⟨next, begun, begun ▸ credit, member, egress⟩
  · have begun := State.uBegun_of_creditTurn hup hs (UPort.creditTurn_of_due ho hturn)
    rw [UPort.aheadOfCredit, ← hb] at begun
    obtain ⟨credit, member, egress, next⟩ := exec_sent_of_credit (s := s) (by rw [begun])
    exact ⟨next, begun, by rw [credit, begun, Nat.sub_self, ← hs], member, egress⟩
  · have begun := State.uBegun_of_member (s := s) (by simp [hu])
      (hs.imp id fun ⟨hup, hs, hc⟩ => ⟨hup, hs, UPort.creditTurn_of_member hu hc⟩)
    obtain ⟨member, credit, egress, next⟩ := exec_sent_of_member (s := s) (by rw [begun])
    rw [hu] at member next
    exact ⟨next, begun, by rw [member, begun]; rfl, credit, egress⟩
  · have begun := State.uBegun_of_egress (s := s) (by simp [he]) hs
    obtain ⟨egress, credit, member, next⟩ := exec_sent_of_egress (s := s) (by rw [begun])
    rw [he] at egress next
    exact ⟨next, begun, by rw [egress, begun]; rfl, credit, member⟩
  · have begun := State.uBegun_of_nothing hs hn
    obtain ⟨credit, member, egress, next⟩ := exec_sent_of_none (s := s) (by rw [begun, hs])
    exact ⟨next, begun, credit, member, egress⟩
  · obtain rfl : low = lowBytes := hlow
    refine ⟨fun n => rfl, fun r n hst => ?_, fun code => rfl, fun d => ?_, fun hop => ⟨rfl, rfl⟩⟩
    · rw [EgressFrame.reply_body, Status.code_of_place hst]
    · rw [MemberFrame.descriptor_body, flagsByte_eq]
  · have notTaken : ∀ take : State → State, (.next (s.onU take) : Host.Outcome State Fault Refusal) = .next s :=
      fun take => congrArg Host.Outcome.next (State.onU_of_not_up hdown take)
    refine ⟨fun h a n d hd => ?_, notTaken _, fun base => ⟨notTaken _, notTaken _⟩, notTaken _, notTaken _,
      fun k => notTaken _, fun n => notTaken _⟩
    exact (congrArg Host.Outcome.next (State.onFrame_of_short hd .u _ s)).trans (notTaken _)

/-- Settles O10: the three frames are taken as good frames, in the state g; IDENTIFY and ASSIGN hand their answer to the port,
RELEASE retests the held request, which has then no route. -/
theorem memberFramesOfTheParent : Obligations.MemberFramesOfTheParent := by
  intro base s hup g hg handed hhanded answer hanswer
  have taken : ∀ take : State → State,
      (.next (s.onU take) : Host.Outcome State Fault Refusal) = .next (take g) :=
    fun take => congrArg Host.Outcome.next ((State.onU_of_up hup take).trans (hg ▸ rfl))
  have hmember : g.member = s.member := by rw [hg]
  subst hhanded
  refine ⟨(taken _).trans ?_, fun hm hal a ha => (taken _).trans ?_, fun hn => (taken _).trans ?_,
    fun hm a ha => ?_, fun hn => (taken _).trans ?_⟩
  · have answered : answer = if g.member = none then .descriptor g.descriptor else .empty 0 := by
      rw [hanswer, hmember, hg]
      cases s.member <;> rfl
    rw [answered, hg]
    rfl
  · have aligned : g.member = none ∧ base.toNat % 2 ^ g.spanExp = 0 := ⟨hmember.trans hm, by rw [hg]; exact hal⟩
    dsimp only
    rw [if_pos aligned, ha, hg]
    rfl
  · have refused : ¬(g.member = none ∧ base.toNat % 2 ^ g.spanExp = 0) := by
      rw [hmember, hg]
      exact fun ⟨h1, h2⟩ => hn.elim (fun h => h h1) fun h => h h2
    dsimp only
    rw [if_neg refused, hg]
    rfl
  · have released : exec (.uRelease base) s = .next a.retestHeld := by
      refine (taken _).trans ?_
      dsimp only
      rw [if_pos (hmember.trans hm), ha, hg]
    refine ⟨fun hheld => ?_, fun r rest hheld hing => ?_⟩
    · rw [released, State.retestHeld_of_none (by rw [ha, hg]; exact hheld)]
    · have noRoute : a.route r = .refuse .noroute := State.route_outside (.inl (by rw [ha]))
      rw [released, State.retestHeld_of_held (by rw [ha, hg]; exact hheld) (by rw [ha, hg]; exact hing), noRoute]
      rfl
  · dsimp only
    rw [if_neg (by rw [hmember]; exact hn), hg]
    rfl

/-- The count of bad frames in a row is nothing that U looks at to begin a frame. -/
theorem UPort.begin_sending_goodFrame (w : Bool) (u : UPort) :
    (UPort.begin w { u with port := { u.port with badRun := 0 } }).sending = (u.begin w).sending := by
  simp only [UPort.begin, apply_ite UPort.sending]
  rfl

/-- The HUSH, as it is taken: U goes QUIET with the frame that it sends, and signals wake for the egress queue (R170, R179). -/
theorem exec_uHush {s : State} (hup : s.u.port.link = .up) : exec .uHush s = .next (State.signalWakeU { s with
    u := { s.u with port := s.u.port.goQuiet, unsent := s.u.aheadOfCredit, sending := s.uBegun.sending } }) := by
  refine congrArg Host.Outcome.next ((State.onU_of_up hup _).trans ?_)
  simp [State.uBegun, UPort.begin_sending_goodFrame, LinkPort.goQuiet, UPort.aheadOfCredit]

/-- Settles O11: the HUSH leaves the frame being sent as it was on a U that is not UP, so its command still sends it. -/
theorem hushFromParentQuietsU : Obligations.HushFromParentQuietsU := by
  intro s hup hpin waiting hwaiting
  have quiet (he : s.egress = []) : exec .uHush s = .next { s with u := { s.u with
      port := s.u.port.goQuiet, unsent := waiting, sending := s.uBegun.sending } } := by
    rw [exec_uHush hup, hwaiting]
    simp [State.signalWakeU, he, UPort.aheadOfCredit]
  have woken (he : s.egress ≠ []) : exec .uHush s = .next { s with
      u := { s.u with port := s.u.port.train s.now, unsent := waiting, sending := s.uBegun.sending }
      upstream := { s.upstream with wakes := s.upstream.wakes + 1 } } := by
    rw [exec_uHush hup, hwaiting]
    simp [State.signalWakeU, he, UPort.aheadOfCredit, LinkPort.goQuiet, LinkPort.train, State.trainU, State.trained, hpin]
  refine ⟨quiet, woken, fun t ht => ?_⟩
  obtain ⟨hdown, hsend, hgrant, howed, hunsent, hegress⟩ : t.u.port.link ≠ .up ∧ t.u.sending = s.uBegun.sending ∧
      t.u.granted = s.u.granted ∧ t.u.owed = s.u.owed ∧ t.u.unsent = waiting ∧ t.egress = s.egress := by
    by_cases he : s.egress = []
    · obtain rfl := Host.Outcome.next.inj ((quiet he).symm.trans ht)
      exact ⟨nofun, rfl, rfl, rfl, rfl, rfl⟩
    · obtain rfl := Host.Outcome.next.inj ((woken he).symm.trans ht)
      exact ⟨nofun, rfl, rfl, rfl, rfl, rfl⟩
  have begun : t.uBegun = t.u := State.uBegun_of_not_up hdown
  refine ⟨fun n hn => ?_, fun h rest hm hw => ?_, fun f rest hg he => ?_⟩
  · rw [(exec_sent_of_credit (begun ▸ hsend.trans hn)).1, begun, hgrant, howed]
  · rw [(exec_sent_of_member (begun ▸ hsend.trans hm)).1, begun, hunsent, hw]; rfl
  · rw [(exec_sent_of_egress (begun ▸ hsend.trans hg)).1, begun, hegress, he]; rfl

end Sys2Proof.Machine

namespace Sys2Proof.Machine

open Sys2Proof

/-! ### The credit law off a lawful upstream side (R175, R194) -/

/-- A state that keeps the credit law and not the upstream law: RESET is asserted while U is UP, with a notice to send, and a
HUSH is the next command. The HUSH makes U signal wake with the notice on the line, and RESET then holds the port OFF. -/
def hushWhileReset : State :=
  { State.reset with
    resetPin := true
    u :=
      { port := { State.reset.u.port with link := .up, attemptTimer := none }
        granted := 16
        owed := 0
        unsent := []
        sending := none }
    egress := [.attention 0]
    pending := [.uHush] }

/-- Refutes O55: the credit law alone does not keep RESET away from a U that is UP, and there a step leaves a U that is OFF with
a frame begun. -/
theorem not_stepKeepsCreditAndUpstreamLaws : ¬ Obligations.StepKeepsCreditAndUpstreamLaws := by
  intro h
  have before : hushWhileReset.CreditLaw := by decide
  have after : (State.signalWakeU { hushWhileReset with
      pending := []
      u := { hushWhileReset.u with port := hushWhileReset.u.port.goQuiet, sending := some .egress } }).sendsWhatIsThere = false := by
    decide
  exact nomatch after.symm.trans ((h hushWhileReset _ rfl).1 before).2.2

end Sys2Proof.Machine

namespace Sys2Proof.Machine

open Sys2Proof

/-! ### What a branch at rest holds (R62, R131, R139) -/

/-- The entry is on a branch exactly where it holds a tag there. -/
theorem PendingEntry.onBranch_iff (b : Branch) (x : PendingEntry) : x.onBranch b = true ↔ ∃ t, x.tagOn b = some t := by
  cases x <;> simp [PendingEntry.onBranch, PendingEntry.tagOn]

/-- The branch tags held on a branch, entry by entry. -/
theorem State.heldBranchTags_eq (s : State) (b : Branch) :
    s.heldBranchTags b = (List.finRange 32).filterMap fun e => (s.entry e).tagOn b := by
  rw [State.heldBranchTags, toList_eq_map_finRange, List.filterMap_map]
  rfl

/-- A tag is held on a branch exactly where an entry holds it there. -/
theorem State.mem_heldBranchTags (s : State) (b : Branch) (t : BTag) :
    t ∈ s.heldBranchTags b ↔ ∃ e : EntryIx, (s.entry e).tagOn b = some t := by
  simp [State.heldBranchTags_eq]

/-- The law of branch tags, entry by entry: entries that hold the same tag on a branch are the same entry. -/
theorem State.branchTagLaw_iff (s : State) : s.BranchTagLaw ↔ ∀ (b : Branch) (e e' : EntryIx) (t : BTag),
    (s.entry e).tagOn b = some t → (s.entry e').tagOn b = some t → e = e' := by
  refine forall_congr' fun b => ?_
  rw [State.heldBranchTags_eq, List.Nodup, List.pairwise_filterMap]
  constructor
  · intro h e e' t he he'
    have : Std.Symm fun a a' : EntryIx => ∀ g, (s.entry a).tagOn b = some g → ∀ g', (s.entry a').tagOn b = some g' →
        g ≠ g' := ⟨fun _ _ k g hg g' hg' => (k g' hg' g hg).symm⟩
    by_contra hne
    exact h.forall (List.mem_finRange e) (List.mem_finRange e') hne t he t he' rfl
  · intro h
    exact (List.nodup_finRange 32).imp fun hne g hg g' hg' e => hne (h _ _ g hg (hg'.trans (congrArg some e.symm)))

/-- The entry count of a branch is 0 where no entry is on it. -/
theorem State.entryCount_eq_zero (s : State) (b : Branch) :
    s.entryCount b = 0 ↔ ∀ e : EntryIx, (s.entry e).onBranch b = false := by
  rw [State.entryCount, toList_eq_map_finRange, List.countP_eq_zero]
  simp [State.entry]

/-- What the law of dormancy says of one branch. -/
def State.RestsOn (s : State) (b : Branch) : Prop :=
  ((s.br b).state = .down ∨ (s.br b).state = .failed ∨ (s.br b).state = .dormant →
      (s.br b).queue = [] ∧ s.entryCount b = 0) ∧
    ((s.br b).sleepy = true → s.entryCount b = 0) ∧ (s.br b).queue.length ≤ Config.forwardSlots

theorem State.dormancyLaw_iff (s : State) : s.DormancyLaw ↔ ∀ b, s.RestsOn b := Iff.rfl

/-- The states in which a branch carries traffic. -/
def BranchState.Awake (st : BranchState) : Prop :=
  st = .active ∨ st = .draining

theorem State.RestsOn.of_awake {s : State} {b : Branch} (h : (s.br b).state.Awake)
    (hq : (s.br b).queue.length ≤ Config.forwardSlots) : s.RestsOn b := by
  rcases h with h | h <;> exact ⟨by simp [h], by simp [BranchUnit.sleepy, h], hq⟩

theorem State.RestsOn.of_empty {s : State} {b : Branch} (hq : (s.br b).queue = []) (hc : s.entryCount b = 0) :
    s.RestsOn b :=
  ⟨fun _ => ⟨hq, hc⟩, fun _ => hc, by simp [hq]⟩

theorem State.RestsOn.of_waking {s : State} {b : Branch} {d : Time} (h : (s.br b).state = .waking d)
    (hc : s.entryCount b = 0) (hq : (s.br b).queue.length ≤ Config.forwardSlots) : s.RestsOn b :=
  ⟨by simp [h], fun _ => hc, hq⟩

/-- A branch that stays in its state and gains neither slot nor entry stays at rest. -/
theorem State.RestsOn.mono {s t : State} {b : Branch} (h : s.RestsOn b) (hs : (t.br b).state = (s.br b).state)
    (hq : (t.br b).queue.Sublist (s.br b).queue) (hc : s.entryCount b = 0 → t.entryCount b = 0) : t.RestsOn b := by
  obtain ⟨shut, sleepy, room⟩ := h
  refine ⟨fun g => ?_, fun g => hc (sleepy ?_), hq.length_le.trans room⟩
  · rw [hs] at g
    obtain ⟨gq, gc⟩ := shut g
    exact ⟨List.sublist_nil.1 (gq ▸ hq), hc gc⟩
  · simpa only [BranchUnit.sleepy, hs] using g

/-! ### A happening that keeps both laws -/

/-- The happening from s to t keeps the law of branch tags and that of dormancy. -/
abbrev State.KeepsRest (s t : State) : Prop :=
  (s.BranchTagLaw → t.BranchTagLaw) ∧ (s.DormancyLaw → t.DormancyLaw)

theorem State.KeepsRest.tags {s t : State} (h : s.KeepsRest t) : s.BranchTagLaw → t.BranchTagLaw :=
  And.left h

theorem State.KeepsRest.dormancy {s t : State} (h : s.KeepsRest t) : s.DormancyLaw → t.DormancyLaw :=
  And.right h

theorem State.KeepsRest.trans {s t u : State} (h : s.KeepsRest t) (g : t.KeepsRest u) : s.KeepsRest u :=
  ⟨fun x => g.tags (h.tags x), fun x => g.dormancy (h.dormancy x)⟩

/-- The same, the later happening first. -/
theorem State.KeepsRest.after {s t u : State} (g : t.KeepsRest u) (h : s.KeepsRest t) : s.KeepsRest u :=
  h.trans g

/-- What both laws look at: the entries, and the state and the queue of each branch. -/
def State.traffic (s : State) : Vector PendingEntry 32 × (Branch → BranchState × List Slot) :=
  (s.entries, fun b => ((s.br b).state, (s.br b).queue))

theorem State.KeepsRest.of_traffic {s t : State} (h : t.traffic = s.traffic) : s.KeepsRest t := by
  obtain ⟨he, hb⟩ := Prod.mk.inj h
  have count : ∀ b, t.entryCount b = s.entryCount b := fun b => by rw [State.entryCount, State.entryCount, he]
  refine ⟨fun g b => ?_, fun g b => ?_⟩
  · rw [State.heldBranchTags, he]; exact g b
  · obtain ⟨hs, hq⟩ := Prod.mk.inj (congrFun hb b)
    exact State.RestsOn.mono (g b) hs (hq ▸ .refl _) fun hc => (count b).trans hc

theorem State.KeepsRest.refl (s : State) : s.KeepsRest s :=
  .of_traffic rfl

/-- State t holds no branch tag that s does not hold in the same entry. -/
def State.ThinsTags (s t : State) : Prop :=
  ∀ (e : EntryIx) (b : Branch), (t.entry e).tagOn b = none ∨ (t.entry e).tagOn b = (s.entry e).tagOn b

theorem State.ThinsTags.of_entries {s t : State} (h : t.entries = s.entries) : s.ThinsTags t :=
  fun e b => .inr (by rw [State.entry, State.entry, h])

theorem State.ThinsTags.branchTagLaw {s t : State} (h : s.ThinsTags t) (hs : s.BranchTagLaw) : t.BranchTagLaw := by
  rw [State.branchTagLaw_iff] at hs ⊢
  have held : ∀ {e : EntryIx} {b : Branch} {g : BTag}, (t.entry e).tagOn b = some g → (s.entry e).tagOn b = some g :=
    fun {e b g} he => by
      rcases h e b with hn | hn
      · exact nomatch hn.symm.trans he
      · exact hn.symm.trans he
  exact fun b e e' g he he' => hs b e e' g (held he) (held he')

theorem State.ThinsTags.entryCount {s t : State} (h : s.ThinsTags t) {b : Branch} (hs : s.entryCount b = 0) :
    t.entryCount b = 0 := by
  rw [State.entryCount_eq_zero] at hs ⊢
  intro e
  rw [← Bool.not_eq_true, PendingEntry.onBranch_iff]
  rintro ⟨g, hg⟩
  rcases h e b with hn | hn
  · exact nomatch hn.symm.trans hg
  · exact Bool.eq_false_iff.1 (hs e) ((PendingEntry.onBranch_iff b _).2 ⟨g, hn.symm.trans hg⟩)

/-- A happening of branch b that adds no branch tag, and leaves b at rest where every branch was. -/
theorem State.KeepsRest.of_branch {s t : State} (b : Branch) (ht : s.ThinsTags t)
    (hc : ∀ c, c ≠ b → (t.br c).state = (s.br c).state ∧ (t.br c).queue = (s.br c).queue)
    (hb : s.RestsOn b → t.RestsOn b) : s.KeepsRest t := by
  refine ⟨ht.branchTagLaw, fun hs c => ?_⟩
  by_cases h : c = b
  · subst h; exact hb (hs c)
  · obtain ⟨e1, e2⟩ := hc c h
    exact State.RestsOn.mono (hs c) e1 (e2 ▸ .refl _) ht.entryCount

/-- A change of branch b alone, which leaves it at rest. -/
theorem State.updBr_keepsRest (s : State) (b : Branch) (f : BranchUnit → BranchUnit)
    (h : s.RestsOn b → (s.updBr b f).RestsOn b) : s.KeepsRest (s.updBr b f) :=
  .of_branch b (.of_entries rfl) (fun _ hc => by rw [State.br_updBr_ne s f hc]; exact ⟨rfl, rfl⟩) h

/-- Slots that leave a queue. -/
theorem State.updBr_keepsRest_of_sublist (s : State) (b : Branch) (f : BranchUnit → BranchUnit)
    (hs : (f (s.br b)).state = (s.br b).state) (hq : (f (s.br b)).queue.Sublist (s.br b).queue) :
    s.KeepsRest (s.updBr b f) :=
  s.updBr_keepsRest b f fun h => h.mono (by rw [State.br_updBr, hs]) (by rw [State.br_updBr]; exact hq) id

/-- A branch that becomes ACTIVE or DRAINING. -/
theorem State.updBr_keepsRest_of_awake (s : State) (b : Branch) (f : BranchUnit → BranchUnit)
    (hs : (f (s.br b)).state.Awake) (hq : (f (s.br b)).queue = (s.br b).queue) : s.KeepsRest (s.updBr b f) :=
  s.updBr_keepsRest b f fun h =>
    .of_awake (by rw [State.br_updBr]; exact hs) (by rw [State.br_updBr, hq]; exact h.2.2)

/-! ### What leaves the traffic as it was -/

/-- A change of a branch that leaves its state and its queue. -/
theorem State.traffic_updBr (s : State) (b : Branch) (f : BranchUnit → BranchUnit)
    (hs : (f (s.br b)).state = (s.br b).state) (hq : (f (s.br b)).queue = (s.br b).queue) :
    (s.updBr b f).traffic = s.traffic := by
  refine congrArg (Prod.mk s.entries) (funext fun c => ?_)
  rw [State.updBr_eq, State.br_setBr_eq]
  split
  · rename_i e; rw [hs, hq, e]
  · rfl

@[simp] theorem State.traffic_advanceTo (s : State) (d : Time) : (s.advanceTo d).traffic = s.traffic := rfl

@[simp] theorem State.traffic_hand (s : State) (b : Branch) (f : BranchFrame) : (s.hand b f).traffic = s.traffic :=
  s.traffic_updBr b _ (by split <;> rfl) (by split <;> rfl)

@[simp] theorem State.traffic_trainBranch (s : State) (b : Branch) : (s.trainBranch b).traffic = s.traffic :=
  s.traffic_updBr b _ rfl rfl

@[simp] theorem State.traffic_goodFrameOn (s : State) (b : Branch) : (s.goodFrameOn b).traffic = s.traffic :=
  s.traffic_updBr b _ rfl rfl

@[simp] theorem State.traffic_discardOn (s : State) (b : Branch) : (s.discardOn b).traffic = s.traffic :=
  s.traffic_updBr b _ rfl rfl

@[simp] theorem State.traffic_countUnexpected (s : State) (b : Branch) : (s.countUnexpected b).traffic = s.traffic :=
  s.traffic_updBr b _ rfl rfl

@[simp] theorem State.traffic_setRecord (s : State) (b : Branch) (p : Position) (r : Record) :
    (s.setRecord b p r).traffic = s.traffic :=
  s.traffic_updBr b _ rfl rfl

@[simp] theorem State.traffic_loseRecords (s : State) (b : Branch) (sel : Position → Bool) :
    (s.loseRecords b sel).traffic = s.traffic :=
  s.traffic_updBr b _ rfl rfl

@[simp] theorem State.traffic_vacateRecords (s : State) (b : Branch) : (s.vacateRecords b).traffic = s.traffic :=
  s.traffic_updBr b _ rfl rfl

@[simp] theorem State.traffic_stopEnumeration (s : State) (b : Branch) (o : EnumOutcome) :
    (s.stopEnumeration b o).traffic = s.traffic :=
  s.traffic_updBr b _ rfl rfl

@[simp] theorem State.traffic_abortEnumeration (s : State) (b : Branch) : (s.abortEnumeration b).traffic = s.traffic := by
  rw [State.abortEnumeration_eq]
  exact s.traffic_updBr b _ rfl rfl

@[simp] theorem State.traffic_beginStep (s : State) (b : Branch) : (s.beginStep b).traffic = s.traffic := by
  rw [State.beginStep, State.traffic_hand]
  exact s.traffic_updBr b _ rfl rfl

@[simp] theorem State.traffic_startEnumeration (s : State) (b : Branch) : (s.startEnumeration b).traffic = s.traffic := by
  rw [State.startEnumeration, State.traffic_beginStep]
  exact s.traffic_updBr b _ rfl rfl

@[simp] theorem State.traffic_updPort (s : State) (p : Port) (f : LinkPort → LinkPort) :
    (s.updPort p f).traffic = s.traffic := by
  cases p with
  | u => rfl
  | branch b => exact s.traffic_updBr b (fun u => { u with port := f u.port }) rfl rfl

@[simp] theorem State.traffic_signalWakeU (s : State) : s.signalWakeU.traffic = s.traffic := by
  simp [State.traffic]

@[simp] theorem State.traffic_placeReply (s : State) (t : UTag) (st : Status) (d : Byte) (ws : List Word) :
    (s.placeReply t st d ws).traffic = s.traffic := by
  simp [State.traffic]

@[simp] theorem State.traffic_answer (s : State) (h : ReqHeader) (st : Status) : (s.answer h st).traffic = s.traffic := by
  simp [State.traffic]

@[simp] theorem State.traffic_answerAll (s : State) (hs : List ReqHeader) (st : Status) :
    (s.answerAll hs st).traffic = s.traffic := by
  simp [State.traffic]

@[simp] theorem State.traffic_presentationDue (s : State) : s.presentationDue.traffic = s.traffic := by
  simp [State.traffic]

@[simp] theorem State.traffic_joinNotice (s : State) (n : NoticeBody) : (s.joinNotice n).traffic = s.traffic := by
  simp [State.traffic]

@[simp] theorem State.traffic_raise (s : State) (c : Cause) : (s.raise c).traffic = s.traffic := by
  simp [State.traffic]

@[simp] theorem State.traffic_endEnumeration (s : State) (b : Branch) (o : EnumOutcome) :
    (s.endEnumeration b o).traffic = s.traffic := by
  rw [State.endEnumeration, State.traffic_raise, State.traffic_stopEnumeration]

@[simp] theorem State.traffic_afterRemoval (s : State) (kept : List Notice) (g : Bool) :
    (s.afterRemoval kept g).traffic = s.traffic := by
  simp [State.traffic]

@[simp] theorem State.traffic_removeNotices (s : State) (gone : Source → Bool) :
    (s.removeNotices gone).traffic = s.traffic := by
  simp [State.traffic]

@[simp] theorem State.traffic_removeNoticesOf (s : State) (b : Branch) (gone : Position → Bool) :
    (s.removeNoticesOf b gone).traffic = s.traffic := by
  simp [State.traffic]

/-- A change of every branch that leaves its state and its queue. -/
theorem State.traffic_mapBranches {s t : State} (f : Branch → BranchUnit → BranchUnit)
    (hf : ∀ b u, (f b u).state = u.state ∧ (f b u).queue = u.queue) (he : t.entries = s.entries)
    (hb : t.branches = mapTable f s.branches) : t.traffic = s.traffic := by
  have br : ∀ b, t.br b = f b (s.br b) := fun b => by rw [State.br, hb]; exact mapTable_get _ _ _
  rw [State.traffic, State.traffic, he]
  refine congrArg (Prod.mk s.entries) (funext fun b => ?_)
  obtain ⟨hs, hq⟩ := hf b (s.br b)
  rw [br, hs, hq]

@[simp] theorem State.traffic_zeroCounters (s : State) : s.zeroCounters.traffic = s.traffic :=
  State.traffic_mapBranches (fun _ u => u.zeroCounters) (fun _ _ => ⟨rfl, rfl⟩) rfl rfl

/-- The answers and the notice doings of a branch event. -/
theorem State.traffic_branchEvent (s : State) (hs : List ReqHeader) (st : Status) (b : Branch) (gone : Position → Bool)
    (ended : Bool) (cause : Option Cause) :
    (s.inOpenOrder (State.answerAll hs st) (noticeDoings b gone ended cause)).traffic = s.traffic := by
  have doings : ∀ x : State, (noticeDoings b gone ended cause x).traffic = x.traffic := fun x => by
    rw [noticeDoings_frame]; rfl
  rcases State.inOpenOrder_cases (State.answerAll hs st) (noticeDoings b gone ended cause) s with e | e <;> rw [e]
  · rw [State.traffic_answerAll, doings]; rfl
  · rw [doings, State.traffic_answerAll]; rfl

end Sys2Proof.Machine

namespace Sys2Proof.Machine

open Sys2Proof

/-! ### Entries and the states of a branch -/

/-- The tag of an entry, once one is replaced. -/
theorem State.setEntry_thinsTags (s : State) (e : EntryIx) (x : PendingEntry)
    (h : ∀ b, x.tagOn b = none ∨ x.tagOn b = (s.entry e).tagOn b) : s.ThinsTags (s.setEntry e x) := by
  intro e' b
  by_cases he : e' = e
  · subst he; rw [State.entry_setEntry]; exact h b
  · rw [State.entry_setEntry_ne s x he]; exact .inr rfl

theorem State.freeEntries_thinsTags (s : State) (b : Branch) : s.ThinsTags (s.freeEntries b) := by
  intro e c
  have g : (s.freeEntries b).entry e = if (s.entry e).onBranch b then .free else s.entry e := mapTable_get _ _ _
  rw [g]
  split
  · exact .inl rfl
  · exact .inr rfl

/-- An entry that becomes ORPHANED keeps its branch and its tag (R61). -/
theorem State.orphanWaiting_thinsTags (s : State) (b : Branch) (sel : Carried → Bool) (st : Status) :
    s.ThinsTags (s.orphanWaiting b sel st) := by
  intro e c
  rw [State.orphanWaiting_entry]
  right
  cases s.entry e with
  | free => rfl
  | orphaned => rfl
  | waiting => dsimp only; split <;> rfl

/-- A happening of the entries alone, which adds no branch tag. -/
theorem State.KeepsRest.of_thinsTags {s t : State} (h : s.ThinsTags t) (hb : t.branches = s.branches) : s.KeepsRest t :=
  have br : ∀ b, t.br b = s.br b := fun b => congrArg (·[b]) hb
  ⟨h.branchTagLaw, fun hs b => State.RestsOn.mono (hs b) (by rw [br b]) (by rw [br b]) h.entryCount⟩

theorem State.setEntry_keepsRest (s : State) (e : EntryIx) (x : PendingEntry)
    (h : ∀ b, x.tagOn b = none ∨ x.tagOn b = (s.entry e).tagOn b) : s.KeepsRest (s.setEntry e x) :=
  .of_thinsTags (s.setEntry_thinsTags e x h) rfl

theorem State.orphanWaiting_keepsRest (s : State) (b : Branch) (sel : Carried → Bool) (st : Status) :
    s.KeepsRest (s.orphanWaiting b sel st) :=
  .of_thinsTags (s.orphanWaiting_thinsTags b sel st) rfl

theorem State.freeEntries_entryCount (s : State) (b : Branch) : (s.freeEntries b).entryCount b = 0 := by
  rw [State.entryCount_eq_zero]
  intro e
  have g : (s.freeEntries b).entry e = if (s.entry e).onBranch b then .free else s.entry e := mapTable_get _ _ _
  rw [g]
  split
  · rfl
  · rename_i h; simpa using h

theorem State.emptyQueue_keepsRest (s : State) (b : Branch) : s.KeepsRest (s.emptyQueue b) :=
  s.updBr_keepsRest_of_sublist b _ rfl (List.nil_sublist _)

theorem State.popSlot_keepsRest (s : State) (b : Branch) : s.KeepsRest (s.popSlot b) :=
  s.updBr_keepsRest_of_sublist b _ rfl (List.tail_sublist _)

/-- The entry into WAKING of a branch that has no pending entry: it was DORMANT or FAILED (R136). -/
theorem State.enterWaking_keepsRest (s : State) (b : Branch)
    (h : (s.br b).state = .dormant ∨ (s.br b).state = .failed) : s.KeepsRest (s.enterWaking b) := by
  rw [State.enterWaking_eq]
  refine s.updBr_keepsRest b _ fun g => .of_waking (by rw [State.br_updBr]) ?_ (by rw [State.br_updBr]; exact g.2.2)
  exact (g.1 (h.elim (fun e => .inr (.inr e)) fun e => .inr (.inl e))).2

@[simp] theorem State.freeEntries_br (s : State) (b c : Branch) : (s.freeEntries b).br c = s.br c := rfl

theorem State.freeEntries_keepsRest (s : State) (b : Branch) : s.KeepsRest (s.freeEntries b) :=
  .of_thinsTags (s.freeEntries_thinsTags b) rfl

/-- Branch b holds no slot and no entry. -/
def State.Clear (s : State) (b : Branch) : Prop :=
  (s.br b).queue = [] ∧ s.entryCount b = 0

theorem State.Clear.of_traffic {s t : State} {b : Branch} (h : s.Clear b) (ht : t.traffic = s.traffic) : t.Clear b := by
  obtain ⟨he, hb⟩ := Prod.mk.inj ht
  refine ⟨(Prod.mk.inj (congrFun hb b)).2.trans h.1, ?_⟩
  rw [State.entryCount, he]; exact h.2

/-- A branch whose queue is emptied and whose entries are freed holds neither (R55, R56, R76, R77). -/
theorem State.emptied_clear (s : State) (b : Branch) : (State.freeEntries b (s.emptyQueue b)).Clear b :=
  ⟨by rw [State.freeEntries_br, State.emptyQueue, State.br_updBr], State.freeEntries_entryCount _ b⟩

/-- A branch that holds no slot and no entry is at rest, whatever becomes of its state. -/
theorem State.Clear.updBr_keepsRest {s : State} {b : Branch} (h : s.Clear b) (f : BranchUnit → BranchUnit)
    (hf : (f (s.br b)).queue = (s.br b).queue) : s.KeepsRest (s.updBr b f) :=
  State.updBr_keepsRest s b f fun _ => .of_empty (by rw [State.br_updBr, hf]; exact h.1) h.2

/-! ### The events of a branch -/

theorem State.judgeDrain_keepsRest (s : State) (b : Branch) : s.KeepsRest (s.judgeDrain b) := by
  unfold State.judgeDrain
  split
  · rename_i h
    obtain ⟨-, hq, -⟩ := h
    unfold State.completeDrain
    refine .after (.of_traffic (State.traffic_hand _ b .hush)) ?_
    refine .of_branch b (fun e c => State.freeEntries_thinsTags _ b e c) (fun c hc => ?_) fun _ =>
      .of_empty ?_ (State.freeEntries_entryCount _ b)
    · rw [State.freeEntries_br, State.br_updBr_ne _ _ hc]; exact ⟨rfl, rfl⟩
    · rw [State.freeEntries_br, State.br_updBr]; exact hq
  · exact .refl s

theorem State.branchLinkLoss_keepsRest (s : State) (b : Branch) : s.KeepsRest (s.branchLinkLoss b) := by
  rw [State.branchLinkLoss_event]
  have lost : (State.abortEnumeration b (State.loseRecords b (fun _ => true)
      (State.freeEntries b (s.emptyQueue b)))).traffic = (State.freeEntries b (s.emptyQueue b)).traffic :=
    (State.traffic_abortEnumeration _ b).trans (State.traffic_loseRecords _ b _)
  exact .after (.of_traffic (State.traffic_branchEvent _ _ _ _ _ _ _)) <|
    .after (State.Clear.updBr_keepsRest ((s.emptied_clear b).of_traffic lost) _ rfl) <| .after (.of_traffic lost) <|
    .after (State.freeEntries_keepsRest _ b) (s.emptyQueue_keepsRest b)

theorem State.wakeFails_keepsRest (s : State) (b : Branch) : s.KeepsRest (s.wakeFails b) := by
  rw [State.wakeFails_event]
  have lost := State.traffic_loseRecords (State.freeEntries b (s.emptyQueue b)) b fun _ => true
  exact .after (.of_traffic (State.traffic_branchEvent _ _ _ _ _ _ _)) <|
    .after (State.Clear.updBr_keepsRest ((s.emptied_clear b).of_traffic lost) _ rfl) <| .after (.of_traffic lost) <|
    .after (State.freeEntries_keepsRest _ b) (s.emptyQueue_keepsRest b)

theorem State.takeBreak_keepsRest (s : State) (b : Branch) (k : Nat) : s.KeepsRest (s.takeBreak b k) := by
  rw [State.takeBreak_event]
  refine .after (State.judgeDrain_keepsRest _ b) (.after (.of_traffic (State.traffic_branchEvent _ _ _ _ _ _ _)) ?_)
  refine .after (.of_traffic (State.traffic_updBr _ b _ rfl rfl)) <| .after (.of_traffic (State.traffic_updBr _ b _ rfl rfl)) <|
    .after (.of_traffic (State.traffic_loseRecords _ b _)) <| s.orphanWaiting_keepsRest b _ .lost

theorem State.resetBranchState_keepsRest (s : State) (b : Branch) : s.KeepsRest (s.resetBranchState b) := by
  have active : s.KeepsRest (s.updBr b fun u => { u with state := .active }) :=
    s.updBr_keepsRest_of_awake b _ (.inl rfl) rfl
  have cleared : s.KeepsRest (if (s.br b).unsent.contains .clear then s.updBr b fun u => { u with state := .active }
      else (s.updBr b fun u => { u with state := .active }).hand b .resetClear) := by
    split
    · exact active
    · exact active.trans (.of_traffic (State.traffic_hand _ b _))
  unfold State.resetBranchState
  dsimp only
  cases h : (s.br b).state with
  | active | draining => exact cleared
  | dormant => exact s.enterWaking_keepsRest b (.inl h)
  | failed => exact s.enterWaking_keepsRest b (.inr h)
  | waking | down => exact .refl s

theorem State.resetBranch_keepsRest (s : State) (b : Branch) : s.KeepsRest (s.resetBranch b) := by
  rw [State.resetBranch_event]
  exact .after (.of_traffic (State.traffic_branchEvent _ _ _ _ _ _ _)) <| .after (State.resetBranchState_keepsRest _ b) <|
    .after (.of_traffic (State.traffic_updBr _ b _ rfl rfl)) <| .after (.of_traffic (State.traffic_abortEnumeration _ b)) <|
    .after (.of_traffic (State.traffic_vacateRecords _ b)) <| .after (State.orphanWaiting_keepsRest _ b _ .flushed) <|
    s.emptyQueue_keepsRest b

/-- A link reset empties every queue and frees every entry (R173). -/
theorem State.linkReset_keepsRest (s : State) : s.KeepsRest s.linkReset := by
  have free : ∀ e, s.linkReset.entry e = .free := fun e => by simp [State.entry, State.linkReset]
  refine ⟨State.ThinsTags.branchTagLaw fun e b => .inl (by rw [free]; rfl), fun _ b => ?_⟩
  refine State.RestsOn.of_empty (by rw [State.linkReset_br]; rfl) ((State.entryCount_eq_zero _ b).2 fun e => ?_)
  rw [free]; rfl

theorem State.uLinkLoss_keepsRest (s : State) : s.KeepsRest s.uLinkLoss := by
  have counted : s.KeepsRest { s with upstream := { s.upstream with linkLosses := s.upstream.linkLosses + 1 } } :=
    .of_traffic rfl
  exact (counted.trans (State.linkReset_keepsRest _)).trans (.of_traffic rfl)

/-! ### Links (R123, R125, R137, R184, R194) -/

theorem State.branchLeavesUp_keepsRest (s : State) (b : Branch) : s.KeepsRest (s.branchLeavesUp b) := by
  have trained : s.KeepsRest (State.trainBranch b (s.updBr b fun u => { u with unsent := [] })) :=
    .of_traffic ((State.traffic_trainBranch _ b).trans (s.traffic_updBr b _ rfl rfl))
  unfold State.branchLeavesUp
  dsimp only
  split
  · exact trained.trans (State.branchLinkLoss_keepsRest _ b)
  · exact trained

theorem State.leaveUp_keepsRest (s : State) (p : Port) : s.KeepsRest (s.leaveUp p) := by
  cases p with
  | u => exact s.uLinkLoss_keepsRest
  | branch b => exact s.branchLeavesUp_keepsRest b

theorem State.departure_keepsRest (s : State) (p : Port) : s.KeepsRest (s.departure p) := by
  unfold State.departure
  split
  · exact s.leaveUp_keepsRest p
  · exact .refl s

theorem State.receiveBad_keepsRest (s : State) (p : Port) : s.KeepsRest (s.receiveBad p) := by
  have counted : s.KeepsRest (s.updPort p LinkPort.countBad) := .of_traffic (s.traffic_updPort p _)
  unfold State.receiveBad
  dsimp only
  split
  · split
    · exact counted
    · have risen := counted.trans (.of_traffic (State.traffic_updPort _ p fun q => { q with badRun := (s.portOf p).badRun + 1 }))
      split
      · exact risen.trans (State.leaveUp_keepsRest _ p)
      · exact risen
  · split
    · exact counted
    · exact .refl s
  · exact counted
  · exact .refl s

/-- A branch whose link enters UP is ACTIVE, or keeps its state (R125, R137). -/
theorem State.branchEntersUp_keepsRest (s : State) (b : Branch) : s.KeepsRest (s.branchEntersUp b) := by
  unfold State.branchEntersUp
  dsimp only
  generalize hf : (fun u : BranchUnit => ({ u with
    port := u.port.goUp
    credit := 0
    state := match u.state with
      | .down => .active
      | .waking _ => .active
      | .active => .active
      | .draining => .draining
      | .dormant => .dormant
      | .failed => .failed } : BranchUnit)) = f
  have up : s.KeepsRest (s.updBr b f) := by
    subst hf
    cases h : (s.br b).state with
    | down | waking | active => exact s.updBr_keepsRest_of_awake b _ (.inl (by simp [h])) rfl
    | draining => exact s.updBr_keepsRest_of_awake b _ (.inr (by simp [h])) rfl
    | dormant | failed => exact .of_traffic (s.traffic_updBr b _ (by simp [h]) rfl)
  split
  · exact up.trans (.of_traffic (State.traffic_hand _ b .clear))
  · exact up

theorem State.traffic_afterHush (s : State) (b : Branch) : (s.afterHush b).traffic = s.traffic := by
  unfold State.afterHush
  cases (s.br b).state with
  | waking => exact s.traffic_trainBranch b
  | down | active | draining | dormant | failed => exact s.traffic_updBr b _ rfl rfl

theorem State.traffic_receiveCredit (s : State) (b : Branch) (n : Byte) : (s.receiveCredit b n).traffic = s.traffic := by
  unfold State.receiveCredit
  dsimp only
  split
  · exact s.traffic_updBr b _ (by split <;> rfl) (by split <;> rfl)
  · exact s.traffic_discardOn b

theorem State.traffic_receiveRequest (s : State) (r : Request) : (s.receiveRequest r).traffic = s.traffic := by
  unfold State.receiveRequest
  split <;> rfl

theorem State.onU_keepsRest (s : State) (take : State → State) (h : ∀ x : State, x.KeepsRest (take x)) :
    s.KeepsRest (s.onU take) := by
  unfold State.onU
  split
  · exact .after (h _) (.of_traffic rfl)
  · exact .refl s

theorem State.onBranch_keepsRest (s : State) (b : Branch) (take : State → State) (h : ∀ x : State, x.KeepsRest (take x)) :
    s.KeepsRest (s.onBranch b take) := by
  unfold State.onBranch
  split
  · exact .after (h _) (.of_traffic (s.traffic_goodFrameOn b))
  · exact .refl s

theorem State.onFrame_keepsRest (s : State) (p : Port) (data : List Word) (take : State → State)
    (h : ∀ x : State, x.KeepsRest (take x)) : s.KeepsRest (s.onFrame p data take) := by
  unfold State.onFrame
  split
  · exact s.receiveBad_keepsRest p
  · exact h s

theorem State.runOut_keepsRest (s : State) (d : Time) (act : State → State) (h : ∀ x : State, x.KeepsRest (act x)) :
    s.KeepsRest (s.runOut d act) := by
  unfold State.runOut
  split
  · exact .after (h _) (.of_traffic (s.traffic_advanceTo d))
  · exact .refl s

end Sys2Proof.Machine

namespace Sys2Proof.Machine

open Sys2Proof

/-! ### The issue test (R44 to R49) -/

theorem BranchUnit.mayIssue_iff (u : BranchUnit) : u.mayIssue = true ↔
    (u.state = .active ∨ u.state = .draining) ∧ u.port.link = .up ∧ 1 ≤ u.credit ∧ u.clearOwed = false := by
  simp [BranchUnit.mayIssue, and_assoc]

/-- What a tagged head takes is the lowest free tag and the lowest FREE entry, below the outstanding limit (R44, R48). -/
theorem State.issueRoom_some (s : State) (b : Branch) (t : BTag) (e : EntryIx) : s.issueRoom b = some (t, e) ↔
    s.entryCount b < (s.br b).config.limit ∧ s.isLowestFreeTag b t ∧ s.isLowestFreeEntry e := by
  rw [← State.freeTag_some, ← State.freeEntry_some, State.issueRoom]
  cases s.freeTag b <;> cases s.freeEntry <;> simp

/-- A tagged head finds nothing to take where a further condition of R44 fails. -/
theorem State.issueRoom_none (s : State) (b : Branch) : s.issueRoom b = none ↔
    ¬(s.entryCount b < (s.br b).config.limit ∧ (∃ t, t ∉ s.heldBranchTags b) ∧ ∃ e : EntryIx, s.entry e = .free) := by
  have tag : (∃ t, t ∉ s.heldBranchTags b) ↔ s.freeTag b ≠ none := by rw [Ne, State.freeTag_none, not_forall]
  have entry : (∃ e : EntryIx, s.entry e = .free) ↔ s.freeEntry ≠ none := by
    rw [Ne, State.freeEntry_none, not_forall]; simp only [not_not]
  rw [tag, entry, State.issueRoom]
  cases s.freeTag b <;> cases s.freeEntry <;> simp

/-- The conditions of R44, as the model tests them. -/
theorem State.issuable_iff (s : State) (b : Branch) (q : Slot) :
    s.issuable b q ↔ (s.br b).mayIssue = true ∧ (hdrTags q.hdr ≠ [] → s.issueRoom b ≠ none) := by
  have room : s.issueRoom b ≠ none ↔ _ := (not_congr (s.issueRoom_none b)).trans not_not
  rw [BranchUnit.mayIssue_iff, room]
  simp only [State.issuable, and_assoc]

/-- A POST head that meets the conditions is rechecked, and issued without an entry (R46, R49). -/
theorem State.issueHead_post {s : State} {b : Branch} {q : Slot} {rest : List Slot} (hq : (s.br b).queue = q :: rest)
    (hm : (s.br b).mayIssue = true) (hh : q.hdr = .post) :
    s.issueHead b = if s.recheckPasses b q then s.issuePost b q else s.failRecheck b q := by
  rw [State.issueHead, hq]
  dsimp only
  rw [if_pos hm, hh]

/-- A tagged head that finds no tag, no entry or no room below the outstanding limit waits (R44). -/
theorem State.issueHead_tagged_none {s : State} {b : Branch} {q : Slot} {rest : List Slot} {k : TaggedKind} {ut : UTag}
    (hq : (s.br b).queue = q :: rest) (hm : (s.br b).mayIssue = true) (hh : q.hdr = .tagged k ut)
    (hr : s.issueRoom b = none) : s.issueHead b = s := by
  rw [State.issueHead, hq]
  dsimp only
  rw [if_pos hm, hh]
  dsimp only
  rw [hr]

/-- A tagged head that finds them is rechecked, and issued under the tag as the entry (R46, R48). -/
theorem State.issueHead_tagged_some {s : State} {b : Branch} {q : Slot} {rest : List Slot} {k : TaggedKind} {ut : UTag}
    {t : BTag} {e : EntryIx} (hq : (s.br b).queue = q :: rest) (hm : (s.br b).mayIssue = true)
    (hh : q.hdr = .tagged k ut) (hr : s.issueRoom b = some (t, e)) :
    s.issueHead b = if s.recheckPasses b q then s.issueTagged b q k ut t e else s.failRecheck b q := by
  rw [State.issueHead, hq]
  dsimp only
  rw [if_pos hm, hh]
  dsimp only
  rw [hr]

/-- A head of a branch that may not issue waits (R44, R52, R83). -/
theorem State.issueHead_of_not_mayIssue {s : State} {b : Branch} (h : (s.br b).mayIssue = false) : s.issueHead b = s := by
  rw [State.issueHead]
  split
  · rfl
  · rw [if_neg (by simp [h])]

end Sys2Proof.Machine

namespace Sys2Proof.Machine

open Sys2Proof

/-! ### Forwarder and tracker -/

theorem State.failRecheck_keepsRest (s : State) (b : Branch) (q : Slot) : s.KeepsRest (s.failRecheck b q) :=
  .after (State.judgeDrain_keepsRest _ b) <| .after (.of_traffic (State.traffic_answer _ _ _)) <|
    .after (.of_traffic (State.traffic_updBr _ b _ rfl rfl)) <| s.popSlot_keepsRest b

theorem State.sendHead_keepsRest (s : State) (b : Branch) (f : BranchFrame) : s.KeepsRest (s.sendHead b f) :=
  .after (.of_traffic (State.traffic_hand _ b f)) <| .after (.of_traffic (State.traffic_updBr _ b _ rfl rfl)) <|
    s.popSlot_keepsRest b

/-- A FREE entry that becomes WAITING on a branch that carries traffic, under a tag that no entry holds there (R62, R64). -/
theorem State.takeEntry_keepsRest (s : State) (b : Branch) (e : EntryIx) (c : Carried) (ut : UTag) (d : Time)
    (hb : c.branch = b) (hs : (s.br b).state.Awake) (hf : s.entry e = .free) (ht : c.tag ∉ s.heldBranchTags b) :
    s.KeepsRest (s.setEntry e (.waiting c ut d)) := by
  subst hb
  rw [State.mem_heldBranchTags, not_exists] at ht
  refine ⟨fun h => ?_, fun h a => ?_⟩
  · rw [State.branchTagLaw_iff] at h ⊢
    intro a x y g hx hy
    have new : ∀ z, z ≠ e → ((s.setEntry e (.waiting c ut d)).entry z).tagOn a = some g →
        ((s.setEntry e (.waiting c ut d)).entry e).tagOn a = some g → False := fun z hz h1 h2 => by
      rw [State.entry_setEntry_ne s _ hz] at h1
      simp only [State.entry_setEntry, PendingEntry.tagOn, Option.ite_none_right_eq_some, Option.some.injEq] at h2
      obtain ⟨rfl, rfl⟩ := h2
      exact ht z h1
    by_cases hxe : x = e <;> by_cases hye : y = e
    · exact hxe.trans hye.symm
    · exact (new y hye hy (hxe ▸ hx)).elim
    · exact (new x hxe hx (hye ▸ hy)).elim
    · rw [State.entry_setEntry_ne s _ hxe] at hx
      rw [State.entry_setEntry_ne s _ hye] at hy
      exact h a x y g hx hy
  · by_cases ha : a = c.branch
    · subst ha; exact State.RestsOn.of_awake hs (h _).2.2
    · refine State.RestsOn.mono (h a) rfl (.refl _) fun hc => ?_
      rw [State.entryCount_eq_zero] at hc ⊢
      intro x
      by_cases hx : x = e
      · subst hx; simp [PendingEntry.onBranch, Ne.symm ha]
      · rw [State.entry_setEntry_ne s _ hx]; exact hc x

theorem State.issueHead_keepsRest (s : State) (b : Branch) : s.KeepsRest (s.issueHead b) := by
  by_cases hm : (s.br b).mayIssue = true
  · cases hq : (s.br b).queue with
    | nil => rw [State.issueHead, hq]; exact .refl s
    | cons q rest =>
      cases hh : q.hdr with
      | post =>
        rw [State.issueHead_post hq hm hh]
        split
        · exact .after (State.judgeDrain_keepsRest _ b) (s.sendHead_keepsRest b _)
        · exact s.failRecheck_keepsRest b q
      | tagged k ut =>
        cases hroom : s.issueRoom b with
        | none => rw [State.issueHead_tagged_none hq hm hh hroom]; exact .refl s
        | some room =>
          obtain ⟨t, e⟩ := room
          obtain ⟨-, ⟨ht, -⟩, ⟨he, -⟩⟩ := (s.issueRoom_some b t e).1 hroom
          rw [State.issueHead_tagged_some hq hm hh hroom]
          split
          · exact .after (State.sendHead_keepsRest _ b _) <|
              s.takeEntry_keepsRest b e _ ut _ rfl ((BranchUnit.mayIssue_iff _).1 hm).1 he ht
          · exact s.failRecheck_keepsRest b q
  · rw [State.issueHead_of_not_mayIssue (by simpa using hm)]
    exact .refl s

theorem State.ageSlots_keepsRest (s : State) (b : Branch) : s.KeepsRest (s.ageSlots b) :=
  .after (State.judgeDrain_keepsRest _ b) <| .after (.of_traffic (State.traffic_answerAll _ _ _)) <|
    s.updBr_keepsRest_of_sublist b _ rfl List.filter_sublist

theorem State.traffic_passUpward (s : State) (c : Carried) (ut : UTag) (status detail : Byte) (data : List Word) :
    (s.passUpward c ut status detail data).traffic = s.traffic := by
  unfold State.passUpward
  split
  · exact s.traffic_placeReply _ _ _ _
  · exact (State.traffic_placeReply _ _ _ _ _).trans rfl

theorem State.freeEntry_keepsRest (s : State) (e : EntryIx) : s.KeepsRest (s.setEntry e .free) :=
  s.setEntry_keepsRest e .free fun _ => .inl rfl

theorem State.takeReply_keepsRest (s : State) (b : Branch) (tag : UTag) (status detail : Byte) (data : List Word) :
    s.KeepsRest (s.takeReply b tag status detail data) := by
  unfold State.takeReply
  split
  · exact .of_traffic rfl
  · split
    · exact .refl s
    · exact .after (State.judgeDrain_keepsRest _ b) <| .after (.of_traffic (State.traffic_passUpward _ _ _ _ _ _)) <|
        s.freeEntry_keepsRest _
    · exact (s.freeEntry_keepsRest _).trans (.of_traffic rfl)

/-- A WAITING entry that becomes ORPHANED keeps its branch and its tag (R70). -/
theorem State.replyTimedOut_keepsRest {s : State} {e : EntryIx} {c : Carried} {ut : UTag} {d : Time}
    (h : s.entry e = .waiting c ut d) : s.KeepsRest (s.replyTimedOut e c ut) := by
  have orphaned := s.setEntry_keepsRest e (.orphaned c (s.orphanDeadline c.branch) .timeout) fun b => .inr (by rw [h]; rfl)
  refine .after (State.judgeDrain_keepsRest _ _) <| .after (.of_traffic (State.traffic_placeReply _ _ _ _ _)) <|
    .after (.of_traffic ?_) orphaned
  rfl

/-! ### Chain controller and notice unit -/

@[simp] theorem State.traffic_assignRange (s : State) (b : Branch) (p : Position) (m : Member) (base : Word) :
    (s.assignRange b p m base).traffic = s.traffic := by
  rw [State.assignRange, State.traffic_hand]
  exact (State.traffic_updBr _ b _ rfl rfl).trans (s.traffic_setRecord b p _)

@[simp] theorem State.traffic_placeMember (s : State) (b : Branch) (p : Position) (m : Member) :
    (s.placeMember b p m).traffic = s.traffic := by
  unfold State.placeMember
  split <;> simp

theorem State.traffic_takeDescriptorAt (s : State) (b : Branch) (p : Position) (m : Member) :
    (s.takeDescriptorAt b p m).traffic = s.traffic := by
  unfold State.takeDescriptorAt
  split
  · simp
  · simp
  · simp
  · simp
  · split
    · exact (State.traffic_assignRange _ b p m _).trans (s.traffic_updBr b _ rfl rfl)
    · simp

theorem State.traffic_takeDescriptor (s : State) (b : Branch) (m : Member) (hop : Byte) :
    (s.takeDescriptor b m hop).traffic = s.traffic := by
  unfold State.takeDescriptor
  split
  · split
    · simp
    · exact s.traffic_takeDescriptorAt b _ m
  · simp
  · simp

theorem State.traffic_takeAssigned (s : State) (b : Branch) (hop : Byte) : (s.takeAssigned b hop).traffic = s.traffic := by
  unfold State.takeAssigned
  split
  · split
    · rw [State.traffic_beginStep, State.traffic_updBr _ b _ rfl rfl, State.traffic_setRecord]
    · simp
  · simp
  · simp

theorem State.traffic_takeEmpty (s : State) (b : Branch) : (s.takeEmpty b).traffic = s.traffic := by
  unfold State.takeEmpty
  split <;> simp

theorem State.traffic_takeMend (s : State) (b : Branch) : (s.takeMend b).traffic = s.traffic := by
  unfold State.takeMend
  dsimp only
  split
  · rw [State.traffic_startEnumeration, State.traffic_raise, State.traffic_updBr _ b _ rfl rfl]
  · rw [State.traffic_raise, State.traffic_updBr _ b _ rfl rfl]

theorem State.traffic_clearSent (s : State) (b : Branch) : (s.clearSent b).traffic = s.traffic := by
  unfold State.clearSent
  dsimp only
  split
  · rw [State.traffic_startEnumeration, State.traffic_updBr _ b _ rfl rfl]
  · exact s.traffic_updBr b _ rfl rfl

theorem State.traffic_takeAttention (s : State) (b : Branch) (code hop : Byte) :
    (s.takeAttention b code hop).traffic = s.traffic := by
  unfold State.takeAttention
  split
  · rfl
  · split
    · split
      · rfl
      · exact s.traffic_joinNotice _
    · rfl

/-! ### The commands of the management unit -/

theorem State.traffic_releaseRecord (s : State) (b : Branch) (p : Position) : (s.releaseRecord b p).traffic = s.traffic := by
  unfold State.releaseRecord
  dsimp only
  rw [State.traffic_removeNoticesOf, State.traffic_setRecord]
  split <;> simp

/-- A WAKE cancels a drain, or wakes a branch that has no pending entry (R132). -/
theorem State.wakeBranch_keepsRest (s : State) (b : Branch) : s.KeepsRest (s.wakeBranch b) := by
  unfold State.wakeBranch
  dsimp only
  refine .after ?_ (.of_traffic (s.traffic_updBr b (fun u => { u with wakeLatch := false }) rfl rfl))
  generalize (s.updBr b fun u => { u with wakeLatch := false }) = x
  cases h : (x.br b).state with
  | draining => exact x.updBr_keepsRest_of_awake b _ (.inl rfl) rfl
  | dormant => exact x.enterWaking_keepsRest b (.inl h)
  | failed => exact x.enterWaking_keepsRest b (.inr h)
  | active | down | waking => exact .refl x

theorem State.traffic_ackNotice (s : State) (src : Source) (cs : CauseSet) : (s.ackNotice src cs).traffic = s.traffic := by
  cases src with
  | self =>
    show (s.ackSelf cs).traffic = s.traffic
    unfold State.ackSelf
    dsimp only
    split
    · simp
    · split <;> simp
  | attachment b p =>
    show ((s.removeNotices (· == .attachment b p)).updBr b fun u => { u with wakeLatch := false }).traffic = s.traffic
    rw [State.traffic_updBr _ b _ rfl rfl, State.traffic_removeNotices]

theorem State.applyCommand_keepsRest (s : State) (c : Command) : s.KeepsRest (s.applyCommand c) := by
  cases c with
  | enumerate b => exact .of_traffic (s.traffic_startEnumeration b)
  | release b p => exact .of_traffic (s.traffic_releaseRecord b p)
  | branchReset b => exact s.resetBranch_keepsRest b
  | dormant b => exact .after (State.judgeDrain_keepsRest _ b) (s.updBr_keepsRest_of_awake b _ (.inr rfl) rfl)
  | wake b => exact s.wakeBranch_keepsRest b
  | noticeAck src cs => exact .of_traffic (s.traffic_ackNotice src cs)
  | clearCounters => exact .of_traffic s.traffic_zeroCounters

theorem State.applyRecord_keepsRest (s : State) (r : MgmtRequest) (x : WordRecord) : s.KeepsRest (s.applyRecord r x) := by
  have named : ∀ c : Option Command, s.KeepsRest ((c.map fun c => s.applyCommand c).getD s) := fun c => by
    cases c with
    | none => exact .refl s
    | some c => exact s.applyCommand_keepsRest c
  cases x with
  | unmapped | readOnly | interval => exact .of_traffic rfl
  | globalCommand => exact named _
  | branchCommand b => exact named _
  | window i j => cases j <;> exact .of_traffic rfl
  | config b j =>
    cases j with
    | zero => exact .of_traffic (s.traffic_updBr b _ rfl rfl)
    | succ => exact .refl s

theorem State.applyRecords_keepsRest (r : MgmtRequest) (xs : List WordRecord) (s : State) :
    s.KeepsRest (xs.foldl (State.applyRecord r) s) := by
  induction xs generalizing s with
  | nil => exact .refl s
  | cons x xs ih => exact (s.applyRecord_keepsRest r x).trans (ih _)

theorem State.traffic_countWrite (s : State) (c : Option Command) : (s.countWrite c).traffic = s.traffic := by
  unfold State.countWrite
  split <;> rfl

theorem State.carryOutWrite_keepsRest (s : State) (r : MgmtRequest) : s.KeepsRest (s.carryOutWrite r) := by
  unfold State.carryOutWrite
  split
  · exact .after (.of_traffic (State.traffic_answer _ _ _)) (.of_traffic rfl)
  · exact .after (.of_traffic (State.traffic_answer _ _ _)) <| .after (.of_traffic (State.traffic_countWrite _ _))
      (State.applyRecords_keepsRest r _ s)

theorem State.carryOut_keepsRest (s : State) (r : MgmtRequest) : s.KeepsRest (s.carryOut r) := by
  unfold State.carryOut
  split
  · exact .after (.of_traffic (State.traffic_placeReply _ _ _ _ _)) (.of_traffic rfl)
  · exact .after (.of_traffic (State.traffic_placeReply _ _ _ _ _)) (.of_traffic rfl)
  · exact s.carryOutWrite_keepsRest r
  · exact s.carryOutWrite_keepsRest r

end Sys2Proof.Machine

namespace Sys2Proof.Machine

open Sys2Proof

/-! ### The classifier (R35, R37, R38, R133) -/

/-- A verdict that queues a request queues it on a branch that is neither DOWN nor FAILED and has room (R35, R37). -/
def Verdict.HasRoom (s : State) : Verdict → Prop
  | .refuse _ => True
  | .manage _ => True
  | .enqueue _ b _ _ =>
    (s.br b).state ≠ .down ∧ (s.br b).state ≠ .failed ∧ (s.br b).queue.length < Config.forwardSlots

theorem State.admitTo_hasRoom (s : State) (i : WindowIx) (b : Branch) (a n : Nat) : (s.admitTo i b a n).HasRoom s := by
  unfold State.admitTo
  dsimp only
  split
  · trivial
  · rename_i hup
    obtain ⟨hd, hf⟩ := not_or.1 hup
    split
    · trivial
    · split
      · trivial
      · rename_i hroom; exact ⟨hd, hf, Nat.not_le.1 hroom⟩

theorem State.route_hasRoom (s : State) (r : Request) : (s.route r).HasRoom s := by
  unfold State.route
  split
  · trivial
  · dsimp only
    split
    · trivial
    · split
      · split <;> trivial
      · split
        · trivial
        · split
          · trivial
          · split
            · trivial
            · exact s.admitTo_hasRoom _ _ _ _

theorem State.classify_hasRoom (s : State) (r : Request) : (s.classify r).HasRoom s := by
  unfold State.classify
  split
  · trivial
  · exact s.route_hasRoom r

theorem State.traffic_refuseRequest (s : State) (h : ReqHeader) (why : RefuseReason) :
    (s.refuseRequest h why).traffic = s.traffic := by
  cases h with
  | tagged k t => exact (State.traffic_placeReply _ t _ _ _).trans rfl
  | post => rfl

/-- A request that joins a queue with room, on a branch that is neither DOWN nor FAILED; a DORMANT one enters WAKING. -/
theorem State.enqueueRequest_keepsRest (s : State) (r : Request) (i : WindowIx) (b : Branch) (addr : Nat) (p : Position)
    (h : Verdict.HasRoom s (.enqueue i b addr p)) : s.KeepsRest (s.enqueueRequest r i b addr p) := by
  obtain ⟨hd, hf, hroom⟩ := h
  rw [State.enqueueRequest_eq]
  dsimp only
  generalize r.slot i addr p (s.now + (s.br b).config.replyTimeout * Config.replyTimeoutUnit) = q
  have hit : s.KeepsRest { s with
    windows := s.windows.set i.val { s.windows[i] with hits := (s.windows[i]).hits + 1 } i.isLt } := .of_traffic rfl
  refine hit.trans ?_
  have same : (s.br b) = State.br { s with
    windows := s.windows.set i.val { s.windows[i] with hits := (s.windows[i]).hits + 1 } i.isLt } b := rfl
  rw [same] at hd hf hroom ⊢
  generalize ({ s with
    windows := s.windows.set i.val { s.windows[i] with hits := (s.windows[i]).hits + 1 } i.isLt } : State) = x at hd hf hroom ⊢
  have len : ((x.br b).queue ++ [q]).length ≤ Config.forwardSlots := by simpa using hroom
  split
  · rename_i hs
    rw [State.enterWaking_eq, State.pushSlot, State.updBr_updBr]
    exact x.updBr_keepsRest b _ fun g => .of_waking (by rw [State.br_updBr]) (g.1 (.inr (.inr hs))).2
      (by rw [State.br_updBr]; exact len)
  · rename_i hs
    refine x.updBr_keepsRest b _ fun g => ⟨fun e => ?_, fun e => g.2.1 ?_, by rw [State.br_updBr]; exact len⟩
    · rw [State.br_updBr] at e
      rcases e with e | e | e
      · exact absurd e hd
      · exact absurd e hf
      · exact absurd e hs
    · rwa [State.br_updBr] at e

theorem State.settle_keepsRest (s : State) (r : Request) (v : Verdict) (h : v.HasRoom s) : s.KeepsRest (s.settle r v) := by
  have dropped : s.dropIngressHead.traffic = s.traffic := rfl
  unfold State.settle
  split
  · exact .of_traffic ((State.traffic_refuseRequest _ _ _).trans dropped)
  · split <;> exact .of_traffic rfl
  · exact .after (State.enqueueRequest_keepsRest _ r _ _ _ _ h) (.of_traffic dropped)

theorem State.retestHeld_keepsRest (s : State) : s.KeepsRest s.retestHeld := by
  unfold State.retestHeld
  split
  · rename_i r rest _ _
    have released : s.KeepsRest { s with held := false } := .of_traffic rfl
    exact released.trans (State.settle_keepsRest _ r _ (s.route_hasRoom r))
  · exact .refl s
  · exact .refl s

theorem State.takeHead_keepsRest (s : State) : s.KeepsRest s.takeHead := by
  unfold State.takeHead
  split
  · exact .refl s
  · exact .refl s
  · rename_i r rest _ _
    split
    · exact s.settle_keepsRest r _ (s.classify_hasRoom r)
    · rename_i k t _
      split
      · split
        · exact .of_traffic ((State.traffic_raise _ _).trans rfl)
        · have accepted : s.KeepsRest (s.accept t) := .of_traffic rfl
          exact accepted.trans (State.settle_keepsRest _ r _ (s.classify_hasRoom r))
      · exact .refl s

theorem State.executeHead_keepsRest (s : State) (row : MgmtRow) : s.KeepsRest (s.executeHead row) := by
  unfold State.executeHead
  split
  · exact .refl s
  · rename_i r rest _
    split
    · have popped : s.KeepsRest { s with mgmtQueue := rest } := .of_traffic rfl
      exact .after (State.carryOut_keepsRest _ r) <| .after (State.retestHeld_keepsRest _) popped
    · exact .refl s

/-! ### A wake by neighbour (R134, R195, R196) -/

/-- A branch whose link is QUIET is DORMANT. -/
def State.QuietSleeps (s : State) : Prop :=
  ∀ b, (s.br b).port.link = .quiet → (s.br b).state = .dormant

/-- So it is on lawful branches (R124, R175). -/
theorem State.BranchesLawful.quietSleeps {s : State} (h : s.BranchesLawful) : s.QuietSleeps := by
  intro b hq
  obtain ⟨-, step, -⟩ := h b
  unfold BranchUnit.linkInStep at step
  split at step
  · simp [hq] at step
  · cases hs : (s.br b).state <;> simp [hs, hq, BranchUnit.hushing] at step ⊢

/-- The happening from s to t keeps the law of branch tags and, where a QUIET link is that of a DORMANT branch, that of
dormancy. -/
abbrev State.KeepsRestIfQuiet (s t : State) : Prop :=
  (s.BranchTagLaw → t.BranchTagLaw) ∧ (s.QuietSleeps → s.DormancyLaw → t.DormancyLaw)

theorem State.KeepsRest.ifQuiet {s t : State} (h : s.KeepsRest t) : s.KeepsRestIfQuiet t :=
  ⟨h.tags, fun _ => h.dormancy⟩

theorem State.enterWaking_thinsTags (s : State) (b : Branch) : s.ThinsTags (s.enterWaking b) := by
  rw [State.enterWaking_eq]
  exact .of_entries rfl

/-- A wake by neighbour: refused with the latch set, and else the entry of the branch into WAKING. -/
theorem State.wakeByNeighbour_keepsRest (s : State) (b : Branch) :
    (s.BranchTagLaw → (s.wakeByNeighbour b).BranchTagLaw) ∧
      ((s.br b).state = .dormant → s.KeepsRest (s.wakeByNeighbour b)) := by
  unfold State.wakeByNeighbour
  split
  · have refused : s.KeepsRest _ := .of_traffic ((State.traffic_raise _ (.wake b)).trans (s.traffic_updBr b (fun u =>
      { u with
        controller := { u.controller with wakesRefused := u.controller.wakesRefused + 1 }
        port := { u.port with relistenTimer := some (s.now + Config.quietRelisten) } }) rfl rfl))
    exact ⟨refused.tags, fun _ => refused⟩
  · have latched : s.KeepsRest (s.updBr b fun u => { u with wakeLatch := true }) :=
      .of_traffic (s.traffic_updBr b _ rfl rfl)
    refine ⟨fun h => (State.enterWaking_thinsTags _ b).branchTagLaw (latched.tags h), fun hs => latched.trans ?_⟩
    exact State.enterWaking_keepsRest _ b (.inl (by rw [State.br_updBr]; exact hs))

end Sys2Proof.Machine

namespace Sys2Proof.Machine

open Sys2Proof

/-! ### Every command keeps both laws -/

/-- A power-on reset empties the queues and frees the entries (R175). -/
theorem execPowerOnReset_keepsRest {s t : State} {span1 span0 : Bool} (h : execPowerOnReset span1 span0 s = .next t) :
    s.KeepsRest t := by
  obtain rfl := Host.Outcome.next.inj h
  exact .after (.of_traffic (State.traffic_mapBranches (s := s.linkReset.zeroCounters)
    (fun _ u => u.startPort s.linkReset.zeroCounters.now) (fun _ _ => ⟨rfl, rfl⟩) rfl rfl))
    (s.linkReset_keepsRest.trans (.of_traffic (State.traffic_zeroCounters _)))

/-- RESET asserted stops the links alone (R175). -/
theorem execResetAsserted_keepsRest {s t : State} (h : execResetAsserted s = .next t) : s.KeepsRest t := by
  obtain rfl := Host.Outcome.next.inj h
  exact .of_traffic (State.traffic_mapBranches (fun _ u => { u with port := u.port.goOff, credit := 0, unsent := [] })
    (fun _ _ => ⟨rfl, rfl⟩) rfl rfl)

theorem execTrainingAttemptTimeout_keepsRest {s t : State} {p : Port} (h : execTrainingAttemptTimeout p s = .next t) :
    s.KeepsRest t := by
  obtain rfl := Host.Outcome.next.inj h
  split
  · exact s.runOut_keepsRest _ _ fun x => .of_traffic (x.traffic_updPort p _)
  all_goals exact .refl s

theorem execAgeDeadlineExpiry_keepsRest {s t : State} {b : Branch} (h : execAgeDeadlineExpiry b s = .next t) :
    s.KeepsRest t := by
  obtain rfl := Host.Outcome.next.inj h
  split
  · exact .refl s
  · exact s.runOut_keepsRest _ _ fun x => x.ageSlots_keepsRest b

theorem execReplyDeadlineExpiry_keepsRest {s t : State} {e : EntryIx} (h : execReplyDeadlineExpiry e s = .next t) :
    s.KeepsRest t := by
  obtain rfl := Host.Outcome.next.inj h
  split
  · rename_i c ut d he
    unfold State.runOut
    split
    · exact .after (State.replyTimedOut_keepsRest (s := s.advanceTo d) he) (.of_traffic (s.traffic_advanceTo d))
    · exact .refl s
  all_goals exact .refl s

theorem execOrphanDeadlineExpiry_keepsRest {s t : State} {e : EntryIx} (h : execOrphanDeadlineExpiry e s = .next t) :
    s.KeepsRest t := by
  obtain rfl := Host.Outcome.next.inj h
  split
  · exact s.runOut_keepsRest _ _ fun x => (x.freeEntry_keepsRest e).trans (.of_traffic rfl)
  all_goals exact .refl s

theorem State.identifyTimeout_keepsRest (s : State) (b : Branch) : s.KeepsRest (s.identifyTimeout b) := by
  unfold State.identifyTimeout
  split
  · exact s.runOut_keepsRest _ _ fun x => .of_traffic (x.traffic_endEnumeration b _)
  · exact s.runOut_keepsRest _ _ fun x =>
      .of_traffic ((State.traffic_endEnumeration _ b _).trans (x.traffic_setRecord b _ _))
  · exact .refl s

theorem execWakeTimerExpiry_keepsRest {s t : State} {b : Branch} (h : execWakeTimerExpiry b s = .next t) :
    s.KeepsRest t := by
  obtain rfl := Host.Outcome.next.inj h
  split
  · exact s.runOut_keepsRest _ _ fun x => x.wakeFails_keepsRest b
  all_goals exact .refl s

theorem execRePresentTimerExpiry_keepsRest {s t : State} (h : execRePresentTimerExpiry s = .next t) : s.KeepsRest t := by
  obtain rfl := Host.Outcome.next.inj h
  split
  · exact s.runOut_keepsRest _ _ fun x => .of_traffic ((State.traffic_presentationDue _).trans rfl)
  · exact .refl s

/-- The base that an ASSIGN gives, and the presentation that was owed, are not what the laws look at. -/
theorem execUAssign_keepsRest {s t : State} {base : Word} (h : execUAssign base s = .next t) : s.KeepsRest t := by
  obtain rfl := Host.Outcome.next.inj h
  refine s.onU_keepsRest _ fun x => .of_traffic ?_
  dsimp only
  split
  · unfold State.makeOwed
    dsimp only
    split
    · exact (State.traffic_presentationDue _).trans rfl
    · rfl
  · rfl

theorem execURelease_keepsRest {s t : State} {base : Word} (h : execURelease base s = .next t) : s.KeepsRest t := by
  obtain rfl := Host.Outcome.next.inj h
  refine s.onU_keepsRest _ fun x => ?_
  dsimp only
  split
  · exact .after (State.retestHeld_keepsRest _) (.of_traffic rfl)
  · exact .of_traffic rfl

theorem execUnknownFrameDiscarded_keepsRest {s t : State} {p : Port} (h : execUnknownFrameDiscarded p s = .next t) :
    s.KeepsRest t := by
  cases p with
  | u =>
    obtain rfl := Host.Outcome.next.inj h
    exact s.onU_keepsRest _ fun x => .of_traffic rfl
  | branch b =>
    obtain rfl := Host.Outcome.next.inj h
    exact s.onBranch_keepsRest b _ fun x => .of_traffic (x.traffic_discardOn b)

theorem execLinkEntersUp_keepsRest {s t : State} {p : Port} (h : execLinkEntersUp p s = .next t) : s.KeepsRest t := by
  obtain rfl := Host.Outcome.next.inj h
  split
  · cases p with
    | u => exact .of_traffic rfl
    | branch b => exact s.branchEntersUp_keepsRest b
  · exact .refl s

/-- A wake is taken on a QUIET link alone (R196). -/
theorem execWakeTaken_keepsRest {s t : State} {p : Port} (h : execWakeTaken p s = .next t) : s.KeepsRestIfQuiet t := by
  obtain rfl := Host.Outcome.next.inj h
  split
  · rename_i hq
    obtain ⟨hq, -⟩ := hq
    cases p with
    | u =>
      have trained : s.KeepsRest s.trainU := .of_traffic rfl
      exact trained.ifQuiet
    | branch b =>
      obtain ⟨tags, rest⟩ := s.wakeByNeighbour_keepsRest b
      exact ⟨tags, fun g => (rest (g b hq)).dormancy⟩
  · exact (State.KeepsRest.refl s).ifQuiet

/-- And so is the one that a port listens for again (R196). -/
theorem execQuietRelistenTimeout_keepsRest {s t : State} {b : Branch} {still : Bool}
    (h : execQuietRelistenTimeout b still s = .next t) : s.KeepsRestIfQuiet t := by
  have same : s.KeepsRestIfQuiet s := (State.KeepsRest.refl s).ifQuiet
  obtain rfl := Host.Outcome.next.inj h
  split
  · rename_i d hq _
    unfold State.runOut
    split
    · dsimp only
      have listens : s.KeepsRest ((s.advanceTo d).updBr b fun u => { u with port := { u.port with relistenTimer := none } }) :=
        .of_traffic ((State.traffic_updBr _ b _ rfl rfl).trans (s.traffic_advanceTo d))
      split
      · obtain ⟨tags, rest⟩ := State.wakeByNeighbour_keepsRest
          ((s.advanceTo d).updBr b fun u => { u with port := { u.port with relistenTimer := none } }) b
        refine ⟨fun g => tags (listens.tags g), fun g => (listens.trans (rest ?_)).dormancy⟩
        rw [State.br_updBr]; exact g b hq
      · exact listens.ifQuiet
    · exact same
  all_goals exact same

theorem execCredit_keepsRest {s t : State} {b : Branch} {n : Byte} (h : execCredit b n s = .next t) : s.KeepsRest t := by
  obtain rfl := Host.Outcome.next.inj h
  split
  · exact .of_traffic ((State.traffic_receiveCredit _ b n).trans (s.traffic_goodFrameOn b))
  · exact .refl s

/-- The frame at the head of a port's order leaves it. -/
theorem State.traffic_frameLeaves (s : State) (b : Branch) (rest : List BranchFrame) :
    (s.updBr b fun u => { u with unsent := rest }).traffic = s.traffic :=
  s.traffic_updBr b _ rfl rfl

theorem execBranchClearSent_keepsRest {s t : State} {b : Branch} (h : execBranchClearSent b s = .next t) :
    s.KeepsRest t := by
  have sent : ∀ rest, (State.clearSent b (s.updBr b fun u => { u with unsent := rest })).traffic = s.traffic := fun rest =>
    (State.traffic_clearSent _ b).trans (s.traffic_frameLeaves b rest)
  obtain rfl := Host.Outcome.next.inj h
  split
  · split
    · exact .of_traffic (sent _)
    · exact .refl s
  · split
    · exact .of_traffic (sent _)
    · exact .refl s
  · exact .refl s

theorem execHushSent_keepsRest {s t : State} {b : Branch} (h : execHushSent b s = .next t) : s.KeepsRest t := by
  obtain rfl := Host.Outcome.next.inj h
  split
  · split
    · exact .of_traffic ((State.traffic_afterHush _ b).trans (s.traffic_frameLeaves b _))
    · exact .refl s
  · exact .refl s

theorem execBranchFrameSent_keepsRest {s t : State} {b : Branch} (h : execBranchFrameSent b s = .next t) :
    s.KeepsRest t := by
  obtain rfl := Host.Outcome.next.inj h
  have leaves : ∀ rest, s.KeepsRest (if (s.br b).port.link = .up then s.updBr b fun u => { u with unsent := rest } else s) :=
    fun rest => by
      split
      · exact .of_traffic (s.traffic_frameLeaves b rest)
      · exact .refl s
  cases (s.br b).unsent with
  | nil => exact .refl s
  | cons f rest =>
    cases f with
    | clear | resetClear | hush => exact .refl s
    | tagged | post | identify | assign | release => exact leaves rest

/-- A happening with one outcome. -/
theorem keepsRest_of_next {s x t : State} (h : (.next x : Host.Outcome State Fault Refusal) = .next t)
    (k : s.KeepsRest x) : s.KeepsRestIfQuiet t :=
  Host.Outcome.next.inj h ▸ k.ifQuiet

/-- Every command keeps the law of branch tags and, where a QUIET link is that of a DORMANT branch, that of dormancy. -/
theorem exec_keepsRest {c : Instr} {s t : State} (h : exec c s = .next t) : s.KeepsRestIfQuiet t := by
  cases c with
  | powerOnReset => exact (execPowerOnReset_keepsRest h).ifQuiet
  | resetAsserted => exact (execResetAsserted_keepsRest h).ifQuiet
  | requestFrame =>
    exact keepsRest_of_next h
      (s.onFrame_keepsRest _ _ _ fun x => x.onU_keepsRest _ fun y => .of_traffic (y.traffic_receiveRequest _))
  | uCreditSent => exact keepsRest_of_next h (.of_traffic (by split <;> rfl))
  | classifierTake => exact keepsRest_of_next h s.takeHead_keepsRest
  | uIdentify => exact keepsRest_of_next h (s.onU_keepsRest _ fun x => .of_traffic rfl)
  | uAssign => exact (execUAssign_keepsRest h).ifQuiet
  | uRelease => exact (execURelease_keepsRest h).ifQuiet
  | uClear => exact keepsRest_of_next h (s.onU_keepsRest _ fun x => .after (State.linkReset_keepsRest _) (.of_traffic rfl))
  | uHush => exact keepsRest_of_next h (s.onU_keepsRest _ fun x => .of_traffic ((State.traffic_signalWakeU _).trans rfl))
  | uUnexpectedFrame => exact keepsRest_of_next h (s.onU_keepsRest _ fun x => .of_traffic rfl)
  | uCreditReceived => exact keepsRest_of_next h (s.onU_keepsRest _ fun x => .of_traffic rfl)
  | egressFrameSent => exact keepsRest_of_next h (.of_traffic (by split <;> rfl))
  | uMemberFrameSent => exact keepsRest_of_next h (.of_traffic (by split <;> rfl))
  | badFrame p => exact keepsRest_of_next h (s.receiveBad_keepsRest p)
  | farEndTrains p => exact keepsRest_of_next h (s.departure_keepsRest p)
  | lossOfSignal p => exact keepsRest_of_next h (s.departure_keepsRest p)
  | unknownFrameDiscarded => exact (execUnknownFrameDiscarded_keepsRest h).ifQuiet
  | branchAwayFrame b => exact keepsRest_of_next h (s.onBranch_keepsRest b _ fun x => .of_traffic (x.traffic_discardOn b))
  | trainingAttemptTimeout => exact (execTrainingAttemptTimeout_keepsRest h).ifQuiet
  | linkEntersUp => exact (execLinkEntersUp_keepsRest h).ifQuiet
  | wakeTaken => exact execWakeTaken_keepsRest h
  | quietRelistenTimeout => exact execQuietRelistenTimeout_keepsRest h
  | credit => exact (execCredit_keepsRest h).ifQuiet
  | issue b => exact keepsRest_of_next h (s.issueHead_keepsRest b)
  | ageDeadlineExpiry => exact (execAgeDeadlineExpiry_keepsRest h).ifQuiet
  | reply b =>
    exact keepsRest_of_next h
      (s.onFrame_keepsRest _ _ _ fun x => x.onBranch_keepsRest b _ fun y => y.takeReply_keepsRest b _ _ _ _)
  | replyDeadlineExpiry => exact (execReplyDeadlineExpiry_keepsRest h).ifQuiet
  | orphanDeadlineExpiry => exact (execOrphanDeadlineExpiry_keepsRest h).ifQuiet
  | descriptor b =>
    exact keepsRest_of_next h (s.onBranch_keepsRest b _ fun x => .of_traffic (x.traffic_takeDescriptor b _ _))
  | assigned b => exact keepsRest_of_next h (s.onBranch_keepsRest b _ fun x => .of_traffic (x.traffic_takeAssigned b _))
  | empty b => exact keepsRest_of_next h (s.onBranch_keepsRest b _ fun x => .of_traffic (x.traffic_takeEmpty b))
  | identifyTimerExpiry b => exact keepsRest_of_next h (s.identifyTimeout_keepsRest b)
  | chainbreak b => exact keepsRest_of_next h (s.onBranch_keepsRest b _ fun x => x.takeBreak_keepsRest b _)
  | chainmend b => exact keepsRest_of_next h (s.onBranch_keepsRest b _ fun x => .of_traffic (x.traffic_takeMend b))
  | attention b =>
    exact keepsRest_of_next h (s.onBranch_keepsRest b _ fun x => .of_traffic (x.traffic_takeAttention b _ _))
  | branchClearSent => exact (execBranchClearSent_keepsRest h).ifQuiet
  | hushSent => exact (execHushSent_keepsRest h).ifQuiet
  | branchFrameSent => exact (execBranchFrameSent_keepsRest h).ifQuiet
  | drainComplete b => exact keepsRest_of_next h (s.judgeDrain_keepsRest b)
  | wakeTimerExpiry => exact (execWakeTimerExpiry_keepsRest h).ifQuiet
  | rePresentTimerExpiry => exact (execRePresentTimerExpiry_keepsRest h).ifQuiet
  | managementRead | managementWrite | windowEntryWrite | configurationWrite | rePresentIntervalWrite | managementSwap
  | enumerate | release | branchReset | dormant | wake | noticeAck | clearCounters =>
    exact keepsRest_of_next h (s.executeHead_keepsRest _)

/-- Every step keeps the law of branch tags and, where a QUIET link is that of a DORMANT branch, that of dormancy. -/
theorem step_keepsRest {s t : State} (h : step s = .next t) : s.KeepsRestIfQuiet t := by
  unfold step at h
  split at h
  · unfold State.idle at h
    split at h
    · exact exec_keepsRest h
    · exact keepsRest_of_next h (.of_traffic rfl)
  · have k := exec_keepsRest h
    exact ⟨k.1, k.2⟩

/-- Settles O57: on lawful branches a QUIET link is that of a DORMANT branch. -/
theorem stepKeepsBranchTagAndDormancyLaws : Obligations.StepKeepsBranchTagAndDormancyLaws :=
  fun _ _ h =>
    have ⟨tags, dormancy⟩ := step_keepsRest h
    ⟨tags, fun hl => dormancy hl.quietSleeps⟩

end Sys2Proof.Machine

namespace Sys2Proof.Machine

open Sys2Proof

/-! ### Issue and recheck (R44 to R49) -/

/-- Settles O28: a head that is not issuable fails a condition that any head needs, or is tagged and finds nothing to take. -/
theorem headOfForwardQueueWaits : Obligations.HeadOfForwardQueueWaits := by
  refine fun b s h => congrArg Host.Outcome.next ?_
  rcases h with hq | ⟨q, rest, hq, hn⟩
  · rw [State.issueHead, hq]
  · cases hm : (s.br b).mayIssue with
    | false => exact State.issueHead_of_not_mayIssue hm
    | true =>
      rw [State.issuable_iff, hm] at hn
      cases hh : q.hdr with
      | post => simp [hh, hdrTags] at hn
      | tagged k ut => exact State.issueHead_tagged_none hq hm hh (by simpa [hh, hdrTags] using hn)

/-- A head handed to a port that is UP leaves its queue, spends a credit and is counted (R48, R49). -/
theorem State.sendHead_eq {s : State} {b : Branch} {q : Slot} {rest : List Slot} (hq : (s.br b).queue = q :: rest)
    (hup : (s.br b).port.link = .up) (f : BranchFrame) : s.sendHead b f = s.setBr b { s.br b with
      queue := rest
      credit := (s.br b).credit - 1
      forwarder := { (s.br b).forwarder with issued := (s.br b).forwarder.issued + 1 }
      unsent := (s.br b).unsent ++ [f] } := by
  simp [State.sendHead, State.popSlot, State.hand_eq, State.updBr_eq, hq, hup]

/-- A head that fails the recheck leaves its queue and is counted and answered (R47). -/
theorem State.failRecheck_eq {s : State} {b : Branch} {q : Slot} {rest : List Slot} (hq : (s.br b).queue = q :: rest) :
    s.failRecheck b q = State.judgeDrain b (State.answer q.hdr .absent (s.setBr b { s.br b with
      queue := rest
      forwarder := { (s.br b).forwarder with recheck := (s.br b).forwarder.recheck + 1 } })) := by
  simp [State.failRecheck, State.popSlot, State.updBr_eq, hq]

/-- Settles O29: the room for a tagged head is the lowest free tag and the lowest FREE entry. -/
theorem taggedHeadIsIssued : Obligations.TaggedHeadIsIssued := by
  refine fun b s q rest k ut t e hq hh hi ht he hpass => congrArg Host.Outcome.next ?_
  obtain ⟨hstate, hup, hcredit, howed, hroom⟩ := hi
  have hm := (BranchUnit.mayIssue_iff (s.br b)).2 ⟨hstate, hup, hcredit, howed⟩
  obtain ⟨hlimit, -⟩ := hroom (by simp [hh, hdrTags])
  rw [State.issueHead_tagged_some hq hm hh ((s.issueRoom_some b t e).2 ⟨hlimit, ht, he⟩)]
  refine (if_pos hpass).trans ?_
  exact State.sendHead_eq (s := s.setEntry e _) hq hup _

/-- Settles O30: a POST is handed where the recheck passes; either kind of head is answered where it fails. -/
theorem postIsIssuedAndRecheckRefuses : Obligations.PostIsIssuedAndRecheckRefuses := by
  refine fun b s q rest hq hi => ⟨fun hh hpass => congrArg Host.Outcome.next ?_, fun hfail =>
    congrArg Host.Outcome.next ?_⟩
  · have hm := ((s.issuable_iff b q).1 hi).1
    rw [State.issueHead_post hq hm hh]
    refine (if_pos hpass).trans ?_
    exact congrArg (State.judgeDrain b) (State.sendHead_eq hq ((BranchUnit.mayIssue_iff _).1 hm).2.1 _)
  · obtain ⟨hm, hroom⟩ := (s.issuable_iff b q).1 hi
    have refused : ¬s.recheckPasses b q = true := fun hp => Bool.false_ne_true (hfail.symm.trans hp)
    cases hh : q.hdr with
    | post => rw [State.issueHead_post hq hm hh, if_neg refused, State.failRecheck_eq hq, hh]
    | tagged k ut =>
      cases hr : s.issueRoom b with
      | none => exact absurd hr (hroom (by simp [hh, hdrTags]))
      | some room => rw [State.issueHead_tagged_some hq hm hh hr, if_neg refused, State.failRecheck_eq hq, hh]

/-! ### Aging (R53) -/

/-- The slots whose deadline has passed leave, are counted and answered, and the drain is judged (R53, R129). -/
theorem State.ageSlots_eq (s : State) (b : Branch) (out : List Slot)
    (h : out = (s.br b).queue.filter fun q => decide (q.ageDeadline ≤ s.now)) :
    s.ageSlots b = State.judgeDrain b (State.answerAll (out.map Slot.hdr) .timeout (s.setBr b { s.br b with
      queue := (s.br b).queue.filter fun q => decide (s.now < q.ageDeadline)
      forwarder := { (s.br b).forwarder with aged := (s.br b).forwarder.aged + BitVec.ofNat 32 out.length } })) := by
  have left : (fun q : Slot => !decide (q.ageDeadline ≤ s.now)) = fun q => decide (s.now < q.ageDeadline) :=
    funext fun q => by rw [← decide_not]; exact decide_eq_decide.2 not_le
  rw [State.ageSlots, State.updBr_eq, left, h]

/-- Settles O31: the earliest deadline is that of the queue, and the aged slots are answered before the drain is judged. -/
theorem agedSlotsAreAnsweredTimeout : Obligations.AgedSlotsAreAnsweredTimeout := by
  intro b s d hmem hmin
  have due : exec (.ageDeadlineExpiry b) s = .next (s.runOut d (State.ageSlots b)) := by
    show execAgeDeadlineExpiry b s = _
    rw [execAgeDeadlineExpiry, (earliestDeadline_some _ d).2 ⟨hmem, hmin⟩]
  rw [due]
  refine ⟨fun h => by rw [State.runOut_of_not s d _ h], fun h out hout => ?_⟩
  rw [State.runOut_of_reaches s d _ h, State.ageSlots_eq _ b out hout]
  generalize hy : (s.advanceTo d).setBr b _ = y
  have same : y.egress = s.egress ∧ y.tagReg = s.tagReg ∧ y.reservations = s.reservations ∧ y.u = s.u ∧
      y.upstream = s.upstream ∧ y.trained s.u.port = State.trained { s with now := max s.now d } s.u.port := by
    subst hy; exact ⟨rfl, rfl, rfl, rfl, rfl, rfl⟩
  obtain ⟨hegress, htags, hres, hu, hupstream, htrained⟩ := same
  have tags : (out.map Slot.hdr).flatMap hdrTags = out.flatMap fun q => hdrTags q.hdr := List.flatMap_map _ _ _
  obtain ⟨a1, a2, a3, -⟩ := State.answerAll_spec (out.map Slot.hdr) .timeout y
  have woken := State.answerAll_woken (out.map Slot.hdr) .timeout y
  rw [tags, State.wokenFor, hu, hupstream, htrained] at woken
  rw [tags] at a1 a2 a3
  refine ⟨y.answerAll (out.map Slot.hdr) .timeout, rfl, by rw [a1, hegress], by rw [a2, htags], by rw [a3, hres],
    fun hq hne => ?_, fun hn => ?_, ?_⟩
  · rw [if_pos ⟨hq, by simpa [repliesOf] using hne⟩] at woken
    exact Prod.mk.inj woken
  · rw [if_neg fun hw => hn.elim (fun k => k hw.1) fun k => hw.2 (by rw [k]; rfl)] at woken
    exact Prod.mk.inj woken
  · subst hy
    exact State.answerAll_frame _ _ _

end Sys2Proof.Machine

namespace Sys2Proof.Machine

open Sys2Proof

/-! ### The frames that a branch port sends (R191, R194) -/

/-- A request, IDENTIFY, ASSIGN or RELEASE frame leaves while the link is UP (R191). -/
theorem State.branchFrameSent_leaves {s : State} {b : Branch} {f : BranchFrame} {rest : List BranchFrame}
    (hu : (s.br b).unsent = f :: rest) (hup : (s.br b).port.link = .up) (hc : f ≠ .clear) (hr : f ≠ .resetClear)
    (hh : f ≠ .hush) : exec (.branchFrameSent b) s = .next (s.setBr b { s.br b with unsent := rest }) := by
  show execBranchFrameSent b s = _
  rw [execBranchFrameSent, hu]
  cases f with
  | clear => exact absurd rfl hc
  | resetClear => exact absurd rfl hr
  | hush => exact absurd rfl hh
  | tagged | post | identify | assign | release => exact congrArg Host.Outcome.next (if_pos hup)

/-- On a link that is not UP no frame leaves, and a CLEAR or HUSH waits for its own command (assumption 16). -/
theorem State.branchFrameSent_waits {s : State} {b : Branch} {f : BranchFrame} {rest : List BranchFrame}
    (hu : (s.br b).unsent = f :: rest)
    (h : (s.br b).port.link ≠ .up ∨ f = .clear ∨ f = .resetClear ∨ f = .hush) :
    exec (.branchFrameSent b) s = .next s := by
  show execBranchFrameSent b s = _
  rw [execBranchFrameSent, hu]
  cases f with
  | clear | resetClear | hush => rfl
  | tagged | post | identify | assign | release => exact congrArg Host.Outcome.next (if_neg (by simpa using h))

/-- A HUSH that is the next frame leaves while the link is UP (R194). -/
theorem State.hushSent_leaves {s : State} {b : Branch} {rest : List BranchFrame} (hu : (s.br b).unsent = .hush :: rest)
    (hup : (s.br b).port.link = .up) :
    exec (.hushSent b) s = .next (State.afterHush b (s.setBr b { s.br b with unsent := rest })) := by
  show execHushSent b s = _
  rw [execHushSent, hu]
  exact congrArg Host.Outcome.next (if_pos hup)

theorem State.hushSent_waits {s : State} {b : Branch} {f : BranchFrame} {rest : List BranchFrame}
    (hu : (s.br b).unsent = f :: rest) (h : (s.br b).port.link ≠ .up ∨ f ≠ .hush) :
    exec (.hushSent b) s = .next s := by
  show execHushSent b s = _
  rw [execHushSent, hu]
  cases f with
  | hush => exact congrArg Host.Outcome.next (if_neg (by simpa using h))
  | clear | resetClear | tagged | post | identify | assign | release => rfl

theorem State.branchClearSent_waits {s : State} {b : Branch} {f : BranchFrame} {rest : List BranchFrame}
    (hu : (s.br b).unsent = f :: rest) (h : (s.br b).port.link ≠ .up ∨ (f ≠ .clear ∧ f ≠ .resetClear)) :
    exec (.branchClearSent b) s = .next s := by
  show execBranchClearSent b s = _
  rw [execBranchClearSent, hu]
  cases f with
  | clear | resetClear => exact congrArg Host.Outcome.next (if_neg (by simpa using h))
  | hush | tagged | post | identify | assign | release => rfl

/-- The kind code, the tag and the fields of each frame that a branch port sends (R214, R215). -/
theorem BranchFrame.wire_body (f : BranchFrame) : f.wire.body = match f with
    | .tagged k t addr n data =>
      [match k with | .read => 0x01 | .write => 0x02 | .swap => 0x03, t.setWidth 8] ++ lowBytes 4 addr.toNat ++
        [BitVec.ofNat 8 n] ++ data.flatMap fun w => lowBytes 4 w.toNat
    | .post addr n data =>
      [0x04, 0] ++ lowBytes 4 addr.toNat ++ [BitVec.ofNat 8 n] ++ data.flatMap fun w => lowBytes 4 w.toNat
    | .identify => [0x10, 0]
    | .assign base => [0x13, 0] ++ lowBytes 4 base.toNat
    | .release base => [0x15, 0] ++ lowBytes 4 base.toNat
    | .clear => [0x16, 0]
    | .resetClear => [0x16, 0]
    | .hush => [0x17, 0] := by
  have narrow : ∀ t : BTag, (t.setWidth 6).setWidth 8 = t.setWidth 8 := by decide
  cases f with
  | tagged k t =>
    cases k <;> simp [BranchFrame.wire, WireFrame.body, WireFrame.code, WireFrame.tag, WireFrame.fixed, WireFrame.data,
      ← wordBytes_eq, narrow]
  | post | identify | assign | release | clear | resetClear | hush =>
    simp [BranchFrame.wire, WireFrame.body, WireFrame.code, WireFrame.tag, WireFrame.fixed, WireFrame.data, ← wordBytes_eq]

/-- Settles O18: each sending removes the frame at the head of the port's order, or waits. -/
theorem branchFramesLeaveInOrder : Obligations.BranchFramesLeaveInOrder := by
  refine fun b f rest s hpin hu => ⟨State.branchFrameSent_leaves hu, State.branchFrameSent_waits hu,
    State.hushSent_waits hu, State.branchClearSent_waits hu, ?_, fun low hlow => ?_, fun hup hf hs => ?_,
    fun d hup hf hs => ?_⟩
  · show (if (s.br b).port.link = .up then (s.br b).unsent.head?.map BranchFrame.wire else none) = _
    rw [hu]; rfl
  · subst hlow
    rw [BranchFrame.wire_body]
    cases f <;> rfl
  · subst hf
    rw [State.hushSent_leaves hu hup]
    simp [State.afterHush, State.updBr_eq, LinkPort.goQuiet, hs]
  · subst hf
    rw [State.hushSent_leaves hu hup]
    simp [State.afterHush, State.trainBranch, State.trained, State.updBr_eq, LinkPort.train, hs, hpin]

end Sys2Proof.Machine

namespace Sys2Proof.Machine

open Sys2Proof

/-! ### What an event of a branch leaves (R58, R81, R160, R161) -/

/-- An event of a branch that has made state y of s, changing entries, tracker counters and branches alone, leaves those as they
are in y, and of the rest what its answers and its notice doings make. -/
theorem branchEvent_outcome {s y t : State} {hs : List ReqHeader} {st : Status} {b : Branch} {gone : Position → Bool}
    {ended : Bool} {cause : Option Cause} {tags : List UTag}
    (h : t = y.inOpenOrder (State.answerAll hs st) (noticeDoings b gone ended cause))
    (hy : y = { s with entries := y.entries, tracker := y.tracker, branches := y.branches })
    (htags : hs.flatMap hdrTags = tags) :
    (t.entries = y.entries ∧ t.tracker = y.tracker ∧ t.branches = y.branches) ∧
      t.replies = s.replies ++ repliesOf tags st ∧
      t.tagReg = s.tagReg.filter (fun g => !tags.contains g) ∧
      t.reservations = s.reservations - tags.length ∧
      t.selfCauses = s.selfCauses ||| (cause.elim 0 Cause.toSet) ||| (if ended then (Cause.enum b).toSet else 0) ∧
      (∀ p, gone p = true → t.hasNotice (.attachment b p) = false) ∧
      State.NotesEvent s t (cause.toList ++ if ended then [.enum b] else []) (Source.isOf b gone) ∧
      t = { s with
        u := t.u
        upstream := t.upstream
        tagReg := t.tagReg
        egress := t.egress
        reservations := t.reservations
        entries := t.entries
        tracker := t.tracker
        branches := t.branches
        notices := t.notices
        rePresentTimer := t.rePresentTimer
        presentationOwed := t.presentationOwed
        noticeUnit := t.noticeUnit
        choices := t.choices } := by
  generalize y.entries = es, y.tracker = tr, y.branches = bs at hy ⊢
  subst hy htags
  obtain ⟨replies, tagReg, reservations, -, causes, notices, frame⟩ := branchEvent_spec h
  have notes := branchEvent_notes (s₀ := s) h ⟨⟨rfl, rfl, rfl, rfl⟩, rfl, rfl, rfl, rfl⟩ ⟨rfl, rfl, rfl, rfl, rfl⟩
  have entries : t.entries = es := congrArg State.entries frame
  have tracker : t.tracker = tr := congrArg State.tracker frame
  have branches : t.branches = bs := congrArg State.branches frame
  refine ⟨⟨entries, tracker, branches⟩, replies, tagReg, reservations, causes, notices, notes, ?_⟩
  rw [entries, tracker, branches]
  exact frame

/-- The branches and entries of two states with the same tables. -/
theorem State.br_of_branches {s t : State} (h : t.branches = s.branches) (c : Branch) : t.br c = s.br c :=
  congrArg (·[c]) h

theorem State.entry_of_entries {s t : State} (h : t.entries = s.entries) (e : EntryIx) : t.entry e = s.entry e :=
  congrArg (·[e]) h

/-- The tags of the requests that an event of a branch answers: the queued, then the pending (R58, R81). -/
def State.branchTags (s : State) (b : Branch) : List UTag :=
  s.queueTags b ++ s.waitingTags b fun _ => true

theorem State.eventHeaders_tags (s : State) (b : Branch) :
    (s.queuedHeaders b ++ s.waitingHeaders b fun _ => true).flatMap hdrTags = s.branchTags b := by
  rw [List.flatMap_append, State.queuedHeaders_tags, State.branchTags]
  exact congrArg _ (s.waitingHeaders_tags b fun _ => true)

/-- Every slot of branch b has left and every entry of it is FREE, with what leaves counted; the branch itself is then u (R55, R56,
R76, R77, R86). -/
def State.emptiedAs (b : Branch) (u : BranchUnit) (s : State) : State :=
  State.setBr
    { s with
      entries := mapTable (fun _ e => if e.onBranch b then .free else e) s.entries
      tracker := { s.tracker with
        cut := s.tracker.cut + BitVec.ofNat 32 (s.waitingTags b fun _ => true).length
        abandoned := s.tracker.abandoned + BitVec.ofNat 32 (s.orphanCount b) } }
    b { u with
      queue := []
      forwarder := { (s.br b).forwarder with
        flushed := (s.br b).forwarder.flushed + BitVec.ofNat 32 (s.br b).queue.length } }

theorem State.emptied_eq (s : State) (b : Branch) :
    State.freeEntries b (s.emptyQueue b) = s.emptiedAs b (s.br b) := by
  rw [State.freeEntries_eq, State.emptyQueue, State.updBr_eq, State.emptiedAs, ← State.waitingHeaders_length s b fun _ => true]
  rfl

/-- What such a branch does to itself next. -/
theorem State.updBr_emptiedAs (s : State) (b : Branch) (u : BranchUnit) (f : BranchUnit → BranchUnit)
    (hf : ∀ v q w, f { v with queue := q, forwarder := w } = { f v with queue := q, forwarder := w }) :
    (s.emptiedAs b u).updBr b f = s.emptiedAs b (f u) := by
  rw [State.emptiedAs, State.updBr_eq, State.br_setBr, State.setBr_setBr, hf]
  rfl

/-- A change of the branch before it is emptied shows in what it becomes alone. -/
theorem State.emptiedAs_setBr (s : State) (b : Branch) (u v : BranchUnit) (hq : v.queue = (s.br b).queue)
    (hf : v.forwarder = (s.br b).forwarder) : (s.setBr b v).emptiedAs b u = s.emptiedAs b u := by
  simp only [State.emptiedAs, State.br_setBr, hq, hf]
  exact State.setBr_setBr { s with entries := _, tracker := _ } b v _

/-- What each entry is once those of branch b are freed. -/
theorem State.entry_emptiedAs (s : State) (b : Branch) (u : BranchUnit) (e : EntryIx) :
    (s.emptiedAs b u).entry e = if (s.entry e).onBranch b then .free else s.entry e :=
  mapTable_get _ _ _

/-- The departure of a branch port from UP, outside the HUSH window, while the branch is ACTIVE or DRAINING: an event of the branch
that has been emptied (R123, R126, R184, R185). -/
theorem State.departure_event {s : State} {b : Branch} (hpin : s.resetPin = false) (hup : (s.br b).port.link = .up)
    (hhush : (s.br b).hushWaits = false) (hstate : (s.br b).state = .active ∨ (s.br b).state = .draining) :
    s.departure (.branch b) = State.inOpenOrder
      (State.answerAll (s.queuedHeaders b ++ s.waitingHeaders b fun _ => true) .lost)
      (noticeDoings b (fun p => (s.record b p).losable) (s.br b).enumerating (some (.link b)))
      (s.emptiedAs b { s.br b with
        port := (s.br b).port.train s.now
        credit := 0
        unsent := []
        state := .down
        clearOwed := true
        controller := { (s.br b).controller with linkLosses := (s.br b).controller.linkLosses + 1 }
        records := mapTable (fun _ r => r.lose) (s.br b).records
        enumeration := .idle
        outcome := if (s.br b).enumerating then .aborted else (s.br b).outcome }) := by
  have trained : State.trainBranch b (s.updBr b fun u => { u with unsent := [] }) = s.setBr b { s.br b with
      port := (s.br b).port.train s.now
      credit := 0
      unsent := [] } := by
    simp [State.trainBranch, State.updBr_eq, State.trained, hpin]
  have departs : s.departure (.branch b) =
      (State.trainBranch b (s.updBr b fun u => { u with unsent := [] })).branchLinkLoss b :=
    (if_pos ⟨hup, hhush⟩).trans (if_pos hstate)
  rw [departs, trained, State.branchLinkLoss_event]
  congr 1
  · simp [State.queuedHeaders, State.waitingHeaders]
  · simp [State.record, BranchUnit.enumerating]
  · rw [State.emptied_eq, State.loseRecords, State.abortEnumeration_eq, State.br_setBr,
      State.updBr_emptiedAs _ b _ _ fun _ _ _ => rfl, State.updBr_emptiedAs _ b _ _ fun _ _ _ => rfl,
      State.updBr_emptiedAs _ b _ _ fun _ _ _ => rfl]
    refine (State.emptiedAs_setBr s b _ _ ?_ ?_).trans rfl <;> rfl

/-- Settles O14: the departure is an event of the branch that has been emptied. -/
theorem branchLinkLossEndsTheBranchsWork : Obligations.BranchLinkLossEndsTheBranchsWork := by
  intro b s hpin hup hhush hstate
  obtain ⟨⟨hent, htrk, hbr⟩, hreplies, htags, hres, hcauses, hnotices, hnotes, hframe⟩ :=
    branchEvent_outcome (s := s) (State.departure_event hpin hup hhush hstate) rfl (s.eventHeaders_tags b)
  have br := State.br_of_branches hbr
  refine ⟨s.departure (.branch b), rfl, rfl, ?_, fun c hc => ?_, fun e => ?_, hreplies, htags, hres, htrk, hcauses,
    hnotices, hnotes, hframe⟩
  · rw [br, State.emptiedAs, State.br_setBr]; rfl
  · rw [br, State.emptiedAs, State.br_setBr_ne _ _ hc]; rfl
  · rw [State.entry_of_entries hent, State.entry_emptiedAs]

/-- A wake that fails is an event of the branch that has been emptied (R138). -/
theorem State.wakeFails_emptied (s : State) (b : Branch) : s.wakeFails b = State.inOpenOrder
    (State.answerAll (s.queuedHeaders b ++ s.waitingHeaders b fun _ => true) .lost)
    (noticeDoings b (fun p => (s.record b p).losable) false (some (.wake b)))
    (s.emptiedAs b { s.br b with
      state := .failed
      port := (s.br b).port.goOff
      credit := 0
      unsent := []
      controller := { (s.br b).controller with wakeFailures := (s.br b).controller.wakeFailures + 1 }
      records := mapTable (fun _ r => r.lose) (s.br b).records }) := by
  rw [State.wakeFails_event, State.emptied_eq, State.loseRecords, State.updBr_emptiedAs _ b _ _ fun _ _ _ => rfl,
    State.updBr_emptiedAs _ b _ _ fun _ _ _ => rfl]
  rfl

/-- Settles O21: the timer runs out where no request's deadline comes before it, and the wake then fails. -/
theorem wakeTimeoutFailsTheBranch : Obligations.WakeTimeoutFailsTheBranch := by
  intro b d s hs
  have due : exec (.wakeTimerExpiry b) s = .next (s.runOut d (State.wakeFails b)) := by
    show execWakeTimerExpiry b s = _
    rw [execWakeTimerExpiry, hs]
  rw [due]
  refine ⟨fun h => by rw [State.runOut_of_not s d _ h], fun h => ?_⟩
  rw [State.runOut_of_reaches s d _ h]
  obtain ⟨⟨hent, htrk, hbr⟩, hreplies, htags, hres, hcauses, hnotices, hnotes, hframe⟩ :=
    branchEvent_outcome (s := s.advanceTo d) ((s.advanceTo d).wakeFails_emptied b) rfl
      (State.eventHeaders_tags _ b)
  have br := State.br_of_branches hbr
  refine ⟨(s.advanceTo d).wakeFails b, rfl, ?_, fun c hc => ?_, fun e => ?_, hreplies, htags, hres, htrk, ?_,
    hnotices, hnotes, hframe⟩
  · rw [br, State.emptiedAs, State.br_setBr]; rfl
  · rw [br, State.emptiedAs, State.br_setBr_ne _ _ hc]; rfl
  · rw [State.entry_of_entries hent, State.entry_emptiedAs]; rfl
  · rw [hcauses]; exact BitVec.or_zero

end Sys2Proof.Machine

namespace Sys2Proof.Machine

open Sys2Proof

/-! ### The BRANCH_RESET command (R140, R141) -/

/-- A command word of code 3 names BRANCH-RESET (R208). -/
theorem branchCommand_reset {b : Branch} {w : Word} (h : w.toNat % 16 = 3) : branchCommand b w = some (.branchReset b) := by
  simp [branchCommand, bitsOf_code, h]

/-- Such a write executes under the row of BRANCH_RESET: the branch is reset, and the write is done (R140, R206). -/
theorem exec_branchReset {s : State} {h : ReqHeader} {b : Branch} {w : Word} (hn : s.nextWrite h (0x054 + 48 * b.val) [w])
    (hw : w.toNat % 16 = 3) :
    exec .branchReset s = .next (State.commandDone h (s.afterHeadLeaves.resetBranch b)) := by
  obtain ⟨hwrite, hhead⟩ := hn
  have word := wordRecord_branchCommand b
  have names : MgmtRequest.command? ⟨h, 0x054 + 48 * b.val, 1, [w]⟩ (.branchCommand b) = some (.branchReset b) := by
    show branchCommand b (MgmtRequest.wordAt ⟨h, 0x054 + 48 * b.val, 1, [w]⟩ (0x054 + 48 * b.val)) = _
    rw [one_wordAt, branchCommand_reset hw]
  have row : MgmtRequest.row ⟨h, 0x054 + 48 * b.val, 1, [w]⟩ = .branchReset := by
    rw [MgmtRequest.row_write _ hwrite, MgmtRequest.writeRow, one_records _ _ _ _ word]
    have code : bitsOf (MgmtRequest.wordAt ⟨h, 0x054 + 48 * b.val, 1, [w]⟩ (branchCommandOffset b)) 3 0 = 3 := by
      rw [branchCommandOffset, one_wordAt, bitsOf_code, hw]
    simp [MgmtRequest.commandRow?, code]
  have executed := exec_write hhead hwrite
  rw [show (MgmtRequest.row ⟨h, 0x054 + 48 * b.val, [w].length, [w]⟩) = .branchReset from row] at executed
  refine executed.trans (congrArg Host.Outcome.next ?_)
  exact State.carryOutWrite_command _ h _ w _ (.branchReset b) word rfl names rfl

/-- What a BRANCH-RESET makes of the state of its branch and of its port (R141): a branch that is up starts afresh with a CLEAR, one
that sleeps or has failed is woken, and one that trains goes on. -/
def BranchUnit.restarted (now : Time) (u : BranchUnit) : BranchUnit :=
  let woken := decide (u.state = .dormant) || decide (u.state = .failed)
  let stays := decide (u.state = .active) || decide (u.state = .draining)
  let trains := woken && decide (u.port.link ≠ .up)
  { u with
    state := if stays then .active else if woken then .waking (now + Config.wakeTimer) else u.state
    controller := if woken then { u.controller with wakes := u.controller.wakes + 1 } else u.controller
    port := if trains then u.port.train now else u.port
    credit := if trains then 0 else u.credit
    unsent := u.unsent ++
      (if stays && decide (u.port.link = .up) && !u.unsent.contains .clear then [.resetClear] else []) }

theorem State.resetBranchState_eq {s : State} (b : Branch) (hpin : s.resetPin = false) :
    s.resetBranchState b = s.setBr b ((s.br b).restarted s.now) := by
  have train : s.trained (s.br b).port = (s.br b).port.train s.now := by simp [State.trained, hpin]
  have cleared : ∀ (u : BranchUnit), u = { s.br b with state := .active } →
      (if (s.br b).unsent.contains .clear then s.updBr b fun u => { u with state := .active }
        else (s.updBr b fun u => { u with state := .active }).hand b .resetClear) =
      s.setBr b { u with unsent := u.unsent ++
        (if decide (u.port.link = .up) && !u.unsent.contains .clear then [.resetClear] else []) } := fun u hu => by
    subst hu
    by_cases hc : BranchFrame.clear ∈ (s.br b).unsent <;> by_cases hup : (s.br b).port.link = .up <;>
      simp [State.updBr_eq, State.hand_eq, hc, hup]
  unfold State.resetBranchState
  dsimp only
  cases hs : (s.br b).state with
  | active | draining =>
    dsimp only
    rw [cleared _ rfl]
    simp [BranchUnit.restarted, hs]
  | dormant | failed =>
    dsimp only
    rw [State.enterWaking_eq, State.updBr_eq, train]
    by_cases hup : (s.br b).port.link = .up <;> simp [BranchUnit.restarted, hs, hup]
  | waking | down =>
    have kept : (s.br b).restarted s.now = s.br b := by simp [BranchUnit.restarted, hs]; rw [← hs]
    rw [kept, State.setBr_br]

/-- The branch as a BRANCH-RESET wipes it (R57, R108, R117, R140). -/
def BranchUnit.wiped (u : BranchUnit) : BranchUnit :=
  { u with
    clearOwed := true
    wakeLatch := false
    queue := []
    forwarder := { u.forwarder with flushed := u.forwarder.flushed + BitVec.ofNat 32 u.queue.length }
    records := Vector.replicate 8 Record.vacant
    enumeration := .idle
    outcome := if u.enumerating then .aborted else u.outcome }

/-- Such a branch with its WAITING entries ORPHANED and counted (R57, R78). -/
def State.wiped (b : Branch) (s : State) : State :=
  State.setBr
    { s with
      entries := (s.orphanWaiting b (fun _ => true) .flushed).entries
      tracker := { s.tracker with cut := s.tracker.cut + BitVec.ofNat 32 (s.waitingTags b fun _ => true).length } }
    b (s.br b).wiped

/-- A BRANCH-RESET is an event of the branch that has been wiped and is then started afresh (R140, R141). -/
theorem State.resetBranch_wiped {s : State} (b : Branch) (hpin : s.resetPin = false) : s.resetBranch b = State.inOpenOrder
    (State.answerAll (s.queuedHeaders b ++ s.waitingHeaders b fun _ => true) .flushed)
    (noticeDoings b (fun _ => true) (s.br b).enumerating none)
    ((s.wiped b).setBr b ((s.br b).wiped.restarted s.now)) := by
  have wiped : State.updBr (State.abortEnumeration b (State.vacateRecords b
      (State.orphanWaiting b (fun _ => true) .flushed (State.emptyQueue b s)))) b (fun v =>
        { v with clearOwed := true, wakeLatch := false }) = s.wiped b := by
    have orphaned : (s.emptyQueue b).orphanWaiting b (fun _ => true) .flushed = State.setBr
        { s with
          entries := (s.orphanWaiting b (fun _ => true) .flushed).entries
          tracker := { s.tracker with cut := s.tracker.cut + BitVec.ofNat 32 (s.waitingTags b fun _ => true).length } }
        b { s.br b with
          queue := []
          forwarder := { (s.br b).forwarder with
            flushed := (s.br b).forwarder.flushed + BitVec.ofNat 32 (s.br b).queue.length } } := by
      have deadline : (s.emptyQueue b).orphanDeadline b = s.orphanDeadline b := by
        simp [State.orphanDeadline, State.emptyQueue]
      rw [State.orphanWaiting, deadline, ← State.waitingHeaders_length s b fun _ => true]
      rfl
    rw [orphaned, State.abortEnumeration_eq, State.vacateRecords, State.updBr_updBr, State.updBr_updBr, State.updBr_eq,
      State.br_setBr, State.setBr_setBr]
    rfl
  rw [State.resetBranch_event, wiped, State.resetBranchState_eq b (s := s.wiped b) hpin, State.wiped, State.br_setBr]
  rfl

/-- Judging a held request does not touch RESET. -/
theorem State.settle_resetPin (s : State) (r : Request) (v : Verdict) : (s.settle r v).resetPin = s.resetPin := by
  unfold State.settle
  split
  · unfold State.refuseRequest
    split
    · exact State.placeReply_resetPin _ _ _ _ _
    · rfl
  · split <;> rfl
  · rw [State.enqueueRequest_eq]
    split
    · rw [State.enterWaking_eq]; rfl
    · rfl

@[simp] theorem State.afterHeadLeaves_resetPin (s : State) : s.afterHeadLeaves.resetPin = s.resetPin := by
  rw [State.afterHeadLeaves, State.retestHeld]
  split
  · exact State.settle_resetPin _ _ _
  · rfl
  · rfl

/-- Settles O51: the command is executed as the reset, which is an event of the branch that has been wiped and started afresh. -/
theorem branchResetStartsTheBranchAfresh : Obligations.BranchResetStartsTheBranchAfresh := by
  intro s h b w hn hw hpin v hv tags htagsv woken hwoken trains htrains stays hstays
  have hpin' : v.resetPin = false := by rw [hv, State.afterHeadLeaves_resetPin]; exact hpin
  obtain ⟨⟨hent, htrk, hbr⟩, hreplies, htags, hres, hcauses, hnotices, hnotes, hframe⟩ :=
    branchEvent_outcome (s := v) (State.resetBranch_wiped b hpin') rfl (v.eventHeaders_tags b)
  have br := State.br_of_branches hbr
  subst htagsv
  refine ⟨v.resetBranch b, hv ▸ exec_branchReset hn hw, ?_, fun c hc => ?_, fun e => ?_, hreplies, htags, hres, htrk, ?_,
    fun p => hnotices p rfl, hnotes, hframe⟩
  · rw [br, State.br_setBr]
    subst hwoken htrains hstays
    rfl
  · rw [br, State.br_setBr_ne _ _ hc, State.wiped, State.br_setBr_ne _ _ hc]; rfl
  · rw [State.entry_of_entries hent]
    refine (State.orphanWaiting_entry v b _ _ e).trans ?_
    cases v.entry e <;> simp [State.orphanDeadline]
  · rw [hcauses]; simp

end Sys2Proof.Machine

namespace Sys2Proof.Machine

open Sys2Proof

/-! ### A branch whose drain may complete (R129, R130) -/

/-- A drain that completes on a port that is UP: HUSH is handed, and ORPHANED entries alone are freed (R79, R130). -/
theorem State.completeDrain_eq {s : State} {b : Branch} (hw : s.hasWaiting b = false) (hup : (s.br b).port.link = .up) :
    s.completeDrain b = State.setBr
      { s with
        entries := mapTable (fun _ e => if e.onBranch b then .free else e) s.entries
        tracker := { s.tracker with
          abandoned := s.tracker.abandoned + BitVec.ofNat 32 (s.orphanCount b) } }
      b { s.br b with
        state := .dormant
        controller := { (s.br b).controller with sleeps := (s.br b).controller.sleeps + 1 }
        unsent := (s.br b).unsent ++ [.hush] } := by
  have none_cut (f : BranchUnit → BranchUnit) : ((s.updBr b f).waitingHeaders b fun _ => true).length = 0 :=
    congrArg List.length (State.waitingHeaders_of_none (s.updBr b f) b hw)
  rw [State.completeDrain, State.freeEntries_eq, none_cut, State.hand, State.updBr_eq, State.updBr_eq]
  simp only [State.br, State.setBr, Vector.getElem_set_self, Fin.getElem_fin] at hup ⊢
  simp [hup, State.orphanCount]

/-- Settles O20: the judgement completes the drain exactly where R129 allows it. -/
theorem drainCompletesWhenNothingWaits : Obligations.DrainCompletesWhenNothingWaits := by
  refine fun b s => ⟨fun hd hq hw hup => ?_, fun h => congrArg Host.Outcome.next (if_neg fun hc => ?_)⟩
  · refine ⟨_, congrArg Host.Outcome.next ((if_pos ⟨hd, hq, hw⟩).trans (State.completeDrain_eq hw hup)),
      State.br_setBr _ _ _, fun c hc => State.br_setBr_ne _ _ hc, fun e => mapTable_get _ _ _, rfl⟩
  · obtain ⟨hd, hq, hw⟩ := hc
    rcases h with h | h | h
    · exact h hd
    · exact h hq
    · exact Bool.false_ne_true (hw.symm.trans h)

/-! ### The deadlines of a pending entry (R70, R71) -/

/-- What a timer set to run out at d does: nothing where a request's deadline comes before it (R216; assumption 1). -/
theorem State.next_runOut (s : State) (d : Time) (act : State → State) :
    (s.reaches d = false → (.next (s.runOut d act) : Host.Outcome State Fault Refusal) = .next s) ∧
      (s.reaches d = true →
        (.next (s.runOut d act) : Host.Outcome State Fault Refusal) = .next (act (s.advanceTo d))) :=
  ⟨fun h => by rw [State.runOut_of_not s d act h], fun h => by rw [State.runOut_of_reaches s d act h]⟩

/-- Settles O33: each deadline runs out at its own entry, where no request's deadline comes before it. -/
theorem deadlinesOfAPendingEntry : Obligations.DeadlinesOfAPendingEntry := by
  refine fun e c d s => ⟨fun ut he => ?_, fun st he => ?_⟩
  · have due : exec (.replyDeadlineExpiry e) s = .next (s.runOut d (State.replyTimedOut e c ut)) := by
      show execReplyDeadlineExpiry e s = _
      rw [execReplyDeadlineExpiry, he]
    rw [due]
    exact State.next_runOut s d _
  · have due : exec (.orphanDeadlineExpiry e) s =
        .next (s.runOut d fun t => (t.setEntry e .free).countAbandoned 1) := by
      show execOrphanDeadlineExpiry e s = _
      rw [execOrphanDeadlineExpiry, he]
    rw [due]
    exact State.next_runOut s d _

/-! ### A REPLY of a branch (R65 to R69) -/

/-- A status byte names the status of its number (R215). -/
theorem Status.ofByte_iff (b : Byte) (st : Status) : Status.ofByte b = some st ↔ st.code = b.toNat := by
  revert b
  cases st <;> decide

/-- The data words that R66 asks of a REPLY of a status to a request. -/
def Carried.neededWords (c : Carried) (st : Status) : Nat :=
  if st = .ok then okWords c.kind c.count else 0

/-- A REPLY is well formed where its status byte names a status and it carries the words of that status (R66). -/
theorem wellFormedStatus_some {c : Carried} {status : Byte} {n : Nat} {st : Status} (hs : st.code = status.toNat)
    (hn : n = c.neededWords st) : wellFormedStatus c status n = some st := by
  subst hn
  rw [wellFormedStatus, (Status.ofByte_iff status st).2 hs]
  cases st <;> simp [Carried.neededWords]

theorem wellFormedStatus_none {c : Carried} {status : Byte} {n : Nat}
    (h : ∀ st : Status, st.code = status.toNat → n ≠ c.neededWords st) : wellFormedStatus c status n = none := by
  rw [wellFormedStatus]
  cases hb : Status.ofByte status with
  | none => rfl
  | some st =>
    have hn := h st ((Status.ofByte_iff status st).1 hb)
    cases st <;> simpa [Carried.neededWords] using hn

/-- Under the law of branch tags a REPLY finds the entry that holds its tag on its branch (R62, R65). -/
theorem State.entryFor_eq {s : State} {b : Branch} {tag : UTag} {e : EntryIx} {t : BTag} (hl : s.BranchTagLaw)
    (he : (s.entry e).tagOn b = some t) (ht : t.toNat = tag.toNat) : s.entryFor b tag = some e := by
  cases hf : s.entryFor b tag with
  | none =>
    exact absurd ht ((State.entryFor_none s b tag).1 hf t ((State.mem_heldBranchTags s b t).2 ⟨e, he⟩))
  | some e' =>
    obtain ⟨-, he'⟩ := State.entryFor_some s b tag e' hf
    have same : t = BitVec.ofNat 4 tag.toNat := BitVec.eq_of_toNat_eq (by rw [← ht]; simp)
    rw [(State.branchTagLaw_iff s).1 hl b e' e _ he' (he.trans (congrArg some same))]

/-- A REPLY of a length that a frame allows, on a branch that takes frames, is for the tracker (R65, R187, R190). -/
theorem exec_reply_taken {s : State} {b : Branch} {data : List Word} (hd : data.length ≤ 16)
    (hf : (s.br b).takesFrames = true) (tag : UTag) (status detail : Byte) :
    exec (.reply b tag status detail data) s = .next ((s.goodFrameOn b).takeReply b tag status detail data) :=
  congrArg Host.Outcome.next ((if_neg (not_lt.2 hd)).trans (if_pos hf))

/-- Settles O32: the length is judged first, then the entry that the tag finds, then the reply by R66. -/
theorem replyIsMatchedLateOrStray : Obligations.ReplyIsMatchedLateOrStray := by
  refine fun b tag status detail data s => ⟨fun hlong => congrArg Host.Outcome.next (if_pos hlong), fun hd hf hl => ?_⟩
  have found : ∀ (e : EntryIx) (t : BTag), (s.entry e).tagOn b = some t → t.toNat = tag.toNat →
      (s.goodFrameOn b).entryFor b tag = some e :=
    fun e t he ht => State.entryFor_eq (s := s.goodFrameOn b) hl ((congrArg _ (s.goodFrameOn_entry b e)).trans he) ht
  rw [exec_reply_taken hd hf, State.takeReply]
  refine ⟨fun e c ut d he hb ht a ha need hneed => ?_, fun e c d st he hb ht => ?_, fun hstray => ?_⟩
  · rw [found e c.tag (by simp [he, PendingEntry.tagOn, hb]) ht]
    simp only [State.goodFrameOn_entry, he, ← ha]
    have needs : need = c.neededWords := by rw [hneed]; rfl
    subst needs
    rw [State.passUpward]
    refine ⟨fun st hs hn => by rw [wellFormedStatus_some hs hn], fun h => ?_⟩
    rw [wellFormedStatus_none h, ha]
    rfl
  · rw [found e c.tag (by simp [he, PendingEntry.tagOn, hb]) ht]
    simp only [State.goodFrameOn_entry, he]
    rfl
  · rw [(State.entryFor_none (s.goodFrameOn b) b tag).2 hstray]
    rfl

end Sys2Proof.Machine

namespace Sys2Proof.Machine

open Sys2Proof

/-! ### A chain break (R75, R112, R113) -/

/-- A break loses the records that it changes (R112, R113). -/
theorem BranchUnit.breakLoses_eq (u : BranchUnit) (k : Nat) (p : Position) : u.breakLoses k p =
    decide (k < p.val ∧ (u.records[p]).brokenOff u.workingPosition p ≠ u.records[p]) := by
  rw [BranchUnit.breakLoses, Bool.decide_and]
  congr 1
  cases u.records[p] with
  | vacant | lost | assigned | unplaced => simp [Record.brokenOff]
  | identified m base => by_cases h : u.workingPosition = some p <;> simp [Record.brokenOff, h]

/-- The branch with what lies beyond a break broken off and the break counted (R112, R113). -/
def BranchUnit.broken (k : Nat) (u : BranchUnit) : BranchUnit :=
  { u with
    records := mapTable (fun p r => if k < p.val then r.brokenOff u.workingPosition p else r) u.records
    enumeration := if u.breakEnds k then .idle else u.enumeration
    outcome := if u.breakEnds k then .aborted else u.outcome
    chain := { u.chain with breaks := u.chain.breaks + 1 } }

/-- The records lost are those that the break changes, and a change is a loss. -/
theorem BranchUnit.broken_eq (u : BranchUnit) (k : Nat) : u.broken k = { u with
    records := mapTable (fun p r => if u.breakLoses k p then r.lose else r) u.records
    enumeration := if u.breakEnds k then .idle else u.enumeration
    outcome := if u.breakEnds k then .aborted else u.outcome
    chain := { u.chain with breaks := u.chain.breaks + 1 } } := by
  have changed : mapTable (fun p r => if k < p.val then r.brokenOff u.workingPosition p else r) u.records =
      mapTable (fun p r => if u.breakLoses k p then r.lose else r) u.records := table_ext fun p => by
    rw [mapTable_get, mapTable_get, BranchUnit.breakLoses]
    by_cases hk : k < p.val
    · cases u.records[p] with
      | vacant | lost | assigned | unplaced => simp [hk, Record.brokenOff, Record.lose]
      | identified m base => by_cases h : u.workingPosition = some p <;> simp [hk, h, Record.brokenOff, Record.lose]
    · simp [hk]
  rw [BranchUnit.broken, changed]

theorem BranchUnit.breakEnds_eq (u : BranchUnit) (k : Nat) :
    u.breakEnds k = u.workingPosition.any fun p => decide (k < p.val) := by
  rw [BranchUnit.breakEnds]
  cases u.workingPosition <;> rfl

/-- Such a branch with its WAITING entries beyond the break ORPHANED and counted (R75). -/
def State.broken (b : Branch) (k : Nat) (s : State) : State :=
  State.setBr
    { s with
      entries := (s.orphanWaiting b (fun c => decide (k < c.position.val)) .lost).entries
      tracker := { s.tracker with
        cut := s.tracker.cut + BitVec.ofNat 32 (s.waitingTags b fun p => decide (k < p.val)).length } }
    b ((s.br b).broken k)

/-- A chain break is an event of the branch that has been broken, with the drain judged after it. -/
theorem State.takeBreak_broken (s : State) (b : Branch) (k : Nat) : s.takeBreak b k =
    State.judgeDrain b (State.inOpenOrder
      (State.answerAll (s.waitingHeaders b fun c => decide (k < c.position.val)) .lost)
      (noticeDoings b ((s.br b).breakLoses k) ((s.br b).breakEnds k) (some (.chain b)))
      (s.broken b k)) := by
  rw [State.takeBreak_event, State.loseRecords, State.orphanWaiting_eq, State.broken, BranchUnit.broken_eq,
    State.waitingHeaders_length s b fun p => decide (k < p.val)]
  simp only [State.updBr_eq, State.br_setBr, State.setBr_setBr]
  rfl

/-- Settles O38: the break is an event of the branch that has been broken. -/
theorem chainBreakLosesWhatIsBeyond : Obligations.ChainBreakLosesWhatIsBeyond := by
  intro b hop s htakes g hg tags htags ends hends
  have taken : exec (.chainbreak b hop) s = .next (g.takeBreak b hop.toNat) := hg ▸ congrArg Host.Outcome.next (if_pos htakes)
  have unit : g.br b = { s.br b with port := (s.br b).port.goodFrame } := by rw [hg]; simp [State.goodFrameOn]
  have ends_eq : (g.br b).breakEnds hop.toNat = ends := by rw [BranchUnit.breakEnds_eq, unit, hends]; rfl
  have loses : (g.br b).breakLoses hop.toNat = fun p => decide (hop.toNat < p.val ∧
      (s.record b p).brokenOff (s.br b).workingPosition p ≠ s.record b p) :=
    funext fun p => by rw [BranchUnit.breakLoses_eq, unit]; rfl
  rw [taken, State.takeBreak_broken, ends_eq, loses]
  generalize ht : State.inOpenOrder _ _ (g.broken b hop.toNat) = t
  obtain ⟨⟨hent, htrk, hbr⟩, hreplies, htagReg, hres, hcauses, hnotices, hnotes, hframe⟩ :=
    branchEvent_outcome (s := s) (tags := tags) ht.symm (by rw [hg]; rfl)
      (by rw [hg, htags]; exact s.waitingHeaders_tags b fun p => decide (hop.toNat < p.val))
  have br := State.br_of_branches hbr
  refine ⟨t, rfl, ?_, fun c hc => ?_, fun e => ?_, hreplies, htagReg, hres, ?_, hcauses, fun p hp ha => hnotices p ?_,
    hnotes, hframe⟩
  · rw [br, State.broken, State.br_setBr, BranchUnit.broken, ends_eq, unit]; rfl
  · rw [br, State.broken, State.br_setBr_ne _ _ hc, hg]
    show (s.goodFrameOn b).br c = s.br c
    exact State.br_updBr_ne s _ hc
  · rw [State.entry_of_entries hent]
    refine (State.orphanWaiting_entry g b _ _ e).trans ?_
    rw [State.orphanDeadline, unit, hg, State.goodFrameOn_entry]
    cases s.entry e <;> simp
  · rw [htrk, State.broken, htags, hg]; rfl
  · cases hr : s.record b p with
    | assigned m base => simp [hp, Record.brokenOff]
    | vacant | identified | unplaced | lost => simp [hr, Record.isAssigned] at ha

end Sys2Proof.Machine

namespace Sys2Proof.Machine

open Sys2Proof

/-! ### The regions of the management block (R203) -/

/-- The index of a table that a number within the table's length gives. -/
theorem finOfNat_eq {n k : Nat} [NeZero n] {i : Fin n} (h : k = i.val) : Fin.ofNat n k = i :=
  Fin.ext ((congrArg (· % n) h).trans (Nat.mod_eq_of_lt i.isLt))

theorem State.readWord_general (s : State) {i off : Nat} (hi : i < 16) (h : off = 4 * i) :
    s.readWord off = s.generalWord i := by
  rw [State.readWord, if_pos (by omega)]
  exact congrArg s.generalWord (by omega)

theorem State.readWord_branch (s : State) {b : Branch} {j off : Nat} (hj : j < 12)
    (h : off = 0x040 + 48 * b.val + 4 * j) : s.readWord off = s.branchWord b j := by
  have hb := b.isLt
  rw [State.readWord, if_neg (by omega), if_pos (by omega)]
  exact congrArg₂ s.branchWord (finOfNat_eq (by omega)) (by omega)

theorem State.readWord_window (s : State) {i : WindowIx} {j off : Nat} (hj : j < 4)
    (h : off = 0x100 + 16 * i.val + 4 * j) : s.readWord off = (s.windows[i]).word j := by
  have hi := i.isLt
  rw [State.readWord]
  iterate 2 rw [if_neg (by omega)]
  rw [if_pos (by omega)]
  exact congrArg₂ (fun (i : WindowIx) j => (s.windows[i]).word j) (finOfNat_eq (by omega)) (by omega)

theorem State.readWord_record (s : State) {b : Branch} {p : Position} {j off : Nat} (hj : j < 4)
    (h : off = 0x300 + 128 * b.val + 16 * p.val + 4 * j) : s.readWord off = (s.record b p).word j := by
  have hb := b.isLt
  have hp := p.isLt
  have branch : Fin.ofNat 4 ((off - 0x300) / 128) = b := finOfNat_eq (by omega)
  rw [State.readWord]
  iterate 3 rw [if_neg (by omega)]
  rw [if_pos (by omega), branch]
  exact congrArg₂ (fun p j => (s.record b p).word j) (finOfNat_eq (by omega)) (by omega)

theorem State.readWord_entry (s : State) {e : EntryIx} {j off : Nat} (hj : j < 2)
    (h : off = 0x500 + 8 * e.val + 4 * j) : s.readWord off = (s.entry e).word s.now j := by
  have he := e.isLt
  rw [State.readWord]
  iterate 4 rw [if_neg (by omega)]
  rw [if_pos (by omega)]
  exact congrArg₂ (fun e j => (s.entry e).word s.now j) (finOfNat_eq (by omega)) (by omega)

theorem State.readWord_notice (s : State) {i off : Nat} (hi : i < 64) (h : off = 0x600 + 4 * i) :
    s.readWord off = s.noticeWord i := by
  rw [State.readWord]
  iterate 5 rw [if_neg (by omega)]
  rw [if_pos (by omega)]
  exact congrArg s.noticeWord (by omega)

theorem State.readWord_counter (s : State) {i off : Nat} (hi : i < 64) (h : off = 0x700 + 4 * i) :
    s.readWord off = s.generalCounterList.getD i 0 := by
  rw [State.readWord]
  iterate 6 rw [if_neg (by omega)]
  rw [if_pos (by omega)]
  exact congrArg (s.generalCounterList.getD · 0) (by omega)

theorem State.readWord_branchCounter (s : State) {b : Branch} {j off : Nat} (hj : j < 16)
    (h : off = 0x800 + 64 * b.val + 4 * j) : s.readWord off = (s.br b).counterList.getD j 0 := by
  have hb := b.isLt
  rw [State.readWord]
  iterate 7 rw [if_neg (by omega)]
  rw [if_pos (by omega)]
  exact congrArg₂ (fun b j => (s.br b).counterList.getD j 0) (finOfNat_eq (by omega)) (by omega)

theorem State.readWord_beyond (s : State) {off : Nat} (h : 0x900 ≤ off) : s.readWord off = 0 := by
  rw [State.readWord]
  iterate 8 rw [if_neg (by omega)]

/-! ### Fields (R212) -/

/-- A field, with its place value first: a product by a large literal on the right is one that the kernel counts out. -/
theorem field_eq (hi lo v : Nat) : field hi lo v = 2 ^ lo * (v % 2 ^ (hi - lo + 1)) := Nat.mul_comm _ _

/-- A flag at its bit. -/
theorem field_flag (k : Nat) (b : Bool) : field k k (flagBit b) = if b then 2 ^ k else 0 := by
  cases b <;> simp [field, flagBit]

theorem LinkState.code_lt (l : LinkState) : l.code < 4 := by cases l <;> decide
theorem BranchState.code_lt (st : BranchState) : st.code < 8 := by cases st <;> simp [BranchState.code]
theorem EnumOutcome.code_lt (o : EnumOutcome) : o.code < 8 := by cases o <;> decide
theorem Status.code_lt (st : Status) : st.code < 16 := by cases st <;> decide
theorem kindCode_lt (k : TaggedKind) : kindCode k < 4 := by cases k <;> decide
theorem Source.number_lt (src : Source) : src.number < 64 := by
  cases src with
  | self => decide
  | attachment b p => simp only [Source.number]; omega

/-- A word is its fields added up. -/
theorem packWord_eq {fields : List Nat} {n : Nat} (h : fields.sum = n) : packWord fields = BitVec.ofNat 32 n :=
  congrArg (BitVec.ofNat 32) h

/-! ### The general words (R212) -/

theorem State.generalWord_one (s : State) (hs : s.spanExp < 32) :
    s.generalWord 1 = BitVec.ofNat 32 (0x0C24 + 65536 * s.spanExp + 0x7000000) := by
  have fields : s.generalWord 1 = packWord [field 15 0 0x0C24, field 20 16 s.spanExp, field 24 24 (flagBit true),
      field 25 25 (flagBit true), field 26 26 (flagBit true)] := rfl
  have cls : field 15 0 0x0C24 = 0x0C24 := rfl
  have flags : field 24 24 (flagBit true) = 0x1000000 ∧ field 25 25 (flagBit true) = 0x2000000 ∧
      field 26 26 (flagBit true) = 0x4000000 := ⟨rfl, rfl, rfl⟩
  refine fields.trans (packWord_eq ?_)
  iterate 5 rw [List.sum_cons]
  rw [List.sum_nil, field_eq 20 16 s.spanExp]
  omega

theorem State.generalWord_two (s : State) (hs : s.spanExp < 32) : s.generalWord 2 = BitVec.ofNat 32
    (s.spanExp + (if s.member = none then 0 else 256) + 65536 * s.u.port.link.code) := by
  have hl := s.u.port.link.code_lt
  have assigned : s.member.isSome = true ↔ ¬s.member = none := Option.isSome_iff_ne_none
  refine packWord_eq ?_
  simp only [field_flag, assigned, ite_not]
  simp only [field_eq, List.sum_cons, List.sum_nil, Nat.reduceSub, Nat.reduceAdd, Nat.reducePow]
  omega

theorem State.generalWord_four (s : State) : s.generalWord 4 = BitVec.ofNat 32
    (s.reservations % 128 + 256 * (s.replyFrames % 128) +
      (if s.egress.countP (fun f => !f.isReply) = 0 then 0 else 65536)) := by
  have full : s.noticeSlotFull = true ↔ ¬s.egress.countP (fun f => !f.isReply) = 0 := by
    simp [State.noticeSlotFull, List.countP_eq_zero]
  refine packWord_eq ?_
  simp only [field_flag, full, ite_not]
  simp only [field_eq, List.sum_cons, List.sum_nil, Nat.reduceSub, Nat.reduceAdd, Nat.reducePow]
  omega

/-! ### The words of a branch (R212) -/

theorem State.branchWord_zero (s : State) (b : Branch) : s.branchWord b 0 = BitVec.ofNat 32
    ((s.br b).state.code + (if (s.br b).enumeration = .idle then 0 else 16) + 256 * (s.br b).outcome.code
      + (if (s.br b).wakeLatch then 4096 else 0) + (if (s.br b).clearOwed then 8192 else 0)
      + 65536 * (s.br b).port.link.code) := by
  have hs := (s.br b).state.code_lt
  have ho := (s.br b).outcome.code_lt
  have hl := (s.br b).port.link.code_lt
  have runs : ((s.br b).enumeration != .idle) = true ↔ ¬(s.br b).enumeration = .idle := bne_iff_ne
  refine packWord_eq ?_
  simp only [field_flag, runs, ite_not]
  simp only [field_eq, List.sum_cons, List.sum_nil, Nat.reduceSub, Nat.reduceAdd, Nat.reducePow]
  omega

theorem State.branchWord_one (s : State) (b : Branch) (hc : (s.br b).credit ≤ 255) : s.branchWord b 1 = BitVec.ofNat 32
    ((s.br b).queue.length % 16 + 256 * (match (s.br b).queue with | [] => 0 | q :: _ => q.window.val)
      + 65536 * (s.entryCount b % 32) + 0x1000000 * (s.br b).credit) := by
  refine packWord_eq ?_
  simp only [field_eq, List.sum_cons, List.sum_nil, Nat.reduceSub, Nat.reduceAdd, Nat.reducePow]
  cases (s.br b).queue with
  | nil => simp only [List.head?_nil, Option.map_none, Option.getD_none]; omega
  | cons q rest =>
    have hw := q.window.isLt
    simp only [List.head?_cons, Option.map_some, Option.getD_some]
    omega

theorem State.branchWord_three (s : State) (b : Branch) (hp : (s.br b).config.poolExp ≤ 31)
    (hl : (s.br b).config.limit ≤ 16) : s.branchWord b 3 = BitVec.ofNat 32
      ((s.br b).config.poolExp + 256 * (s.br b).config.limit + (if (s.br b).config.autoEnumerate then 65536 else 0)) := by
  refine packWord_eq ?_
  simp only [field_flag]
  simp only [field_eq, List.sum_cons, List.sum_nil, Nat.reduceSub, Nat.reduceAdd, Nat.reducePow]
  omega

theorem State.branchWord_four (s : State) (b : Branch) (hr : (s.br b).config.replyTimeout ≤ 65535)
    (ho : (s.br b).config.orphanHold ≤ 65535) : s.branchWord b 4 = BitVec.ofNat 32
      ((s.br b).config.replyTimeout + 65536 * (s.br b).config.orphanHold) := by
  refine packWord_eq ?_
  simp only [field_eq, List.sum_cons, List.sum_nil, Nat.reduceSub, Nat.reduceAdd, Nat.reducePow]
  omega

/-! ### The words of an attachment record and of a window entry (R212) -/

theorem Member.word0_eq (m : Member) {n : Nat} (hn : n < 8) (range : Option Word) : m.word0 n range.isSome =
    BitVec.ofNat 32 (n + (if range = none then 0 else 256) + 65536 * (m.sizeExp.toNat % 32)
      + (if m.flags.attentionCapable then 0x1000000 else 0) + (if m.flags.sleepCapable then 0x2000000 else 0)
      + (if m.flags.concentrator then 0x4000000 else 0)) := by
  have ranged : range.isSome = true ↔ ¬range = none := Option.isSome_iff_ne_none
  refine packWord_eq ?_
  simp only [flagFields, List.cons_append, List.nil_append, field_flag, ranged, ite_not]
  simp only [field_eq, List.sum_cons, List.sum_nil, Nat.reduceSub, Nat.reduceAdd, Nat.reducePow]
  omega

theorem Record.code_lt (r : Record) : r.code < 8 := by cases r <;> simp [Record.code]

/-- The words of a record that describes a member, whichever its state. -/
theorem Record.word_eq {r : Record} {m : Member} (hm : r.member? = some m) :
    r.word 0 = m.word0 r.code r.base?.isSome ∧ r.word 1 = BitVec.ofNat 32 m.cls.toNat ∧ r.word 2 = m.identity ∧
      r.word 3 = r.base?.getD 0 := by
  have cls : packWord [field 15 0 m.cls.toNat] = BitVec.ofNat 32 m.cls.toNat := packWord_eq (by
    have := m.cls.isLt
    simp only [field_eq, List.sum_cons, List.sum_nil, Nat.reduceSub, Nat.reduceAdd, Nat.reducePow]
    omega)
  cases r with
  | vacant => cases hm
  | identified | unplaced | assigned | lost => obtain rfl := Option.some.inj hm; exact ⟨rfl, cls, rfl, rfl⟩

theorem Window.word_two (w : Window) : w.word 2 = BitVec.ofNat 32
    (w.sizeExp.toNat + 256 * w.branch.val + (if w.rights.read then 0x10000 else 0)
      + (if w.rights.write then 0x20000 else 0) + (if w.rights.post then 0x40000 else 0)
      + (if w.rights.swap then 0x80000 else 0) + (if w.valid then 0x80000000 else 0)) := by
  have hk := w.sizeExp.isLt
  have hb := w.branch.isLt
  refine packWord_eq ?_
  simp only [field_flag]
  simp only [field_eq, List.sum_cons, List.sum_nil, Nat.reduceSub, Nat.reduceAdd, Nat.reducePow]
  omega

/-! ### The words of a pending entry (R86, R212) -/

theorem Carried.word0_eq (c : Carried) {n : Nat} (hn : n < 4) : c.word0 n = BitVec.ofNat 32
    (n + 16 * c.branch.val + 256 * c.tag.toNat +
      4096 * (match c.kind with | .read => 0 | .write => 1 | .swap => 2) + 65536 * c.position.val +
      0x100000 * (c.count % 32)) := by
  have hb := c.branch.isLt
  have ht := c.tag.isLt
  have hp := c.position.isLt
  refine packWord_eq ?_
  simp only [field_eq, List.sum_cons, List.sum_nil, Nat.reduceSub, Nat.reduceAdd, Nat.reducePow]
  cases c.kind <;> simp only [kindCode] <;> omega

theorem PendingEntry.waiting_word_one (now : Time) (c : Carried) (t : UTag) (d : Time) :
    (PendingEntry.waiting c t d).word now 1 = BitVec.ofNat 32 ((d - now + 9) / 10 % 0x100000 + 0x100000 * t.toNat) := by
  have ht := t.isLt
  refine packWord_eq ?_
  simp only [field_eq, List.sum_cons, List.sum_nil, remaining, Nat.reduceSub, Nat.reduceAdd, Nat.reducePow]
  omega

theorem PendingEntry.orphaned_word_one (now : Time) (c : Carried) (d : Time) (st : Status) :
    (PendingEntry.orphaned c d st).word now 1 =
      BitVec.ofNat 32 ((d - now + 9) / 10 % 0x100000 + 0x10000000 * st.code) := by
  have hs := st.code_lt
  refine packWord_eq ?_
  simp only [field_eq, List.sum_cons, List.sum_nil, remaining, Nat.reduceSub, Nat.reduceAdd, Nat.reducePow]
  omega

/-! ### The notice queue view (R164, R212) -/

theorem State.noticeWord_zero (s : State) : s.noticeWord 0 = BitVec.ofNat 32
    (s.notices.length % 64 + 256 * (match s.notices with | [] => 0 | n :: _ => n.source.number)) := by
  rw [State.noticeWord, if_pos rfl]
  refine packWord_eq ?_
  simp only [field_eq, List.sum_cons, List.sum_nil, Nat.reduceSub, Nat.reduceAdd, Nat.reducePow]
  cases s.notices with
  | nil => simp only [List.head?_nil, Option.map_none, Option.getD_none]; omega
  | cons n rest =>
    have hn := n.source.number_lt
    simp only [List.head?_cons, Option.map_some, Option.getD_some]
    omega

theorem State.noticeWord_one (s : State) : s.noticeWord 1 = BitVec.ofNat 32 s.selfCauses.toNat := by
  have hc := s.selfCauses.isLt
  rw [State.noticeWord, if_neg (by decide), if_pos rfl]
  refine packWord_eq ?_
  simp only [field_eq, List.sum_cons, List.sum_nil, Nat.reduceSub, Nat.reduceAdd, Nat.reducePow]
  omega

theorem Notice.word_eq (n : Notice) : n.word = BitVec.ofNat 32
    (n.source.number + 256 * (match n.body with | .self _ => 0 | .attachment _ _ code => code.toNat)
      + 65536 * (n.merges % 16) + 0x1000000 * (n.presentations % 256)) := by
  have hn := n.source.number_lt
  refine packWord_eq ?_
  simp only [field_eq, List.sum_cons, List.sum_nil, Nat.reduceSub, Nat.reduceAdd, Nat.reducePow]
  cases n.body with
  | self causes => dsimp only; omega
  | attachment b p code => have hc := code.isLt; dsimp only; omega

/-- The word of the notice at place i; zero beyond the notices. -/
theorem State.noticeWord_place (s : State) {i : Nat} (hi : i < 33) :
    s.noticeWord (i + 2) = (s.notices[i]?.map Notice.word).getD 0 := by
  rw [State.noticeWord, if_neg (by omega), if_neg (by omega), if_pos (by omega)]
  rfl

theorem State.noticeWord_counter (s : State) (i : Nat) : s.noticeWord (i + 35) = s.noticeUnit.list.getD i 0 := by
  rw [State.noticeWord, if_neg (by omega), if_neg (by omega), if_neg (by omega)]
  rfl

/-! ### What every word of the block reads as (R212, R213) -/

/-- The bounds that a lawful branch keeps (R142, R192). -/
theorem BranchUnit.Lawful.bounds {pin : Bool} {u : BranchUnit} (h : u.Lawful pin) :
    u.credit ≤ 255 ∧ u.config.poolExp ≤ 31 ∧ u.config.limit ≤ 16 ∧ u.config.replyTimeout ≤ 65535 ∧
      u.config.orphanHold ≤ 65535 := by
  obtain ⟨-, -, -, -, -, -, -, -, -, -, -, -, -, hconfig, hcredit⟩ := h
  obtain ⟨-, hexp, -, -, hlimit, -, hreply, -, horphan⟩ := of_decide_eq_true hconfig
  exact ⟨hcredit, hexp, hlimit, hreply, horphan⟩

/-- A counter of a list shows at its place. -/
theorem getD_of_getElem? {l : List Word} {i : Nat} {w : Word} (h : l[i]? = some w) : i < l.length ∧ l.getD i 0 = w :=
  ⟨(List.getElem?_eq_some_iff.1 h).1, by rw [List.getD_eq_getElem?_getD, h]; rfl⟩

/-- Zero where R203 maps nothing. -/
theorem State.readWord_unmapped (s : State) {off : Nat} (h4 : off % 4 = 0)
    (h : off = 0x03C ∨ (0x6A4 ≤ off ∧ off < 0x700) ∨ (0x76C ≤ off ∧ off < 0x800) ∨ 0x900 ≤ off) : s.readWord off = 0 := by
  rcases h with h | ⟨hlo, hhi⟩ | ⟨hlo, hhi⟩ | h
  · exact s.readWord_general (i := 15) (by decide) h
  · obtain ⟨i, rfl⟩ : ∃ i, off = 0x600 + 4 * (i + 35) := ⟨(off - 0x600) / 4 - 35, by omega⟩
    rw [s.readWord_notice (by omega) rfl, State.noticeWord_counter]
    exact List.getD_eq_default _ _ (by show 6 ≤ i; omega)
  · obtain ⟨i, rfl⟩ : ∃ i, off = 0x700 + 4 * i := ⟨(off - 0x700) / 4, by omega⟩
    rw [s.readWord_counter (by omega) rfl]
    exact List.getD_eq_default _ _ (by show 27 ≤ i; omega)
  · exact s.readWord_beyond h

/-- The words of a record that describes a member, as they stand in the block. -/
theorem State.readWord_member (s : State) {b : Branch} {p : Position} {m : Member} {range : Option Word} {n o : Nat}
    (ho : o = 0x300 + 128 * b.val + 16 * p.val) (hm : (s.record b p).member? = some m) (hr : (s.record b p).base? = range)
    (hn : (s.record b p).code = n) :
    s.readWord o = BitVec.ofNat 32 (n + (if range = none then 0 else 256) + 65536 * (m.sizeExp.toNat % 32)
      + (if m.flags.attentionCapable then 0x1000000 else 0) + (if m.flags.sleepCapable then 0x2000000 else 0)
      + (if m.flags.concentrator then 0x4000000 else 0)) ∧
      s.readWord (o + 4) = BitVec.ofNat 32 m.cls.toNat ∧ s.readWord (o + 8) = m.identity ∧
      s.readWord (o + 12) = range.getD 0 := by
  have hlt := (s.record b p).code_lt
  obtain ⟨w0, w1, w2, w3⟩ := Record.word_eq hm
  subst hr hn
  exact ⟨(s.readWord_record (j := 0) (by decide) (by omega)).trans (w0.trans (m.word0_eq hlt _)),
    (s.readWord_record (j := 1) (by decide) (by omega)).trans w1,
    (s.readWord_record (j := 2) (by decide) (by omega)).trans w2,
    (s.readWord_record (j := 3) (by decide) (by omega)).trans w3⟩

/-- Settles O44: each word is found in its region, and then read field by field. -/
theorem wordsOfTheBlock : Obligations.WordsOfTheBlock := by
  intro s ⟨hspan, _⟩ hlawful
  have span : s.spanExp < 32 := by omega
  refine ⟨s.readWord_general (i := 0) (by decide) rfl,
    (s.readWord_general (i := 1) (by decide) rfl).trans (s.generalWord_one span),
    (s.readWord_general (i := 2) (by decide) rfl).trans (s.generalWord_two span),
    s.readWord_general (i := 3) (by decide) rfl,
    (s.readWord_general (i := 4) (by decide) rfl).trans s.generalWord_four,
    s.readWord_general (i := 5) (by decide) rfl, s.readWord_general (i := 6) (by decide) rfl,
    fun i w h => ?_, fun b u hu => ?_, fun i w hw => ?_, fun e word0 hword0 left hleft => ?_, fun number hnumber => ?_,
    fun i w h => ?_, fun i w h => ?_, fun off h4 h => s.readWord_unmapped h4 h, by decide, fun d => rfl, by decide,
    by decide⟩
  · obtain ⟨hi, hw⟩ := getD_of_getElem? h
    have hi : i < 8 := hi
    exact (s.readWord_general (i := i + 7) (by omega) (by omega)).trans hw
  · subst hu
    obtain ⟨hcredit, hexp, hlimit, hreply, horphan⟩ := (hlawful b).bounds
    refine ⟨(s.readWord_branch (j := 0) (by decide) (by omega)).trans (s.branchWord_zero b),
      (s.readWord_branch (j := 1) (by decide) (by omega)).trans (s.branchWord_one b hcredit),
      s.readWord_branch (j := 2) (by decide) (by omega),
      (s.readWord_branch (j := 3) (by decide) (by omega)).trans (s.branchWord_three b hexp hlimit),
      (s.readWord_branch (j := 4) (by decide) (by omega)).trans (s.branchWord_four b hreply horphan),
      s.readWord_branch (b := b) (j := 5) (by decide) (by omega), fun i w h => ?_, fun i w h => ?_,
      s.readWord_branch (b := b) (j := 11) (by decide) (by omega),
      s.readWord_branchCounter (b := b) (j := 14) (by decide) (by omega),
      s.readWord_branchCounter (b := b) (j := 15) (by decide) (by omega), fun p r hr o ho => ⟨fun hv j hj => ?_, ?_⟩⟩
    · obtain ⟨hi, hw⟩ := getD_of_getElem? h
      have hi : i < 5 := hi
      exact (s.readWord_branch (j := i + 6) (by omega) (by omega)).trans hw
    · obtain ⟨hi, hw⟩ := getD_of_getElem? h
      have hi : i < 14 := hi
      exact (s.readWord_branchCounter (j := i) (by omega) rfl).trans hw
    · rw [s.readWord_record (b := b) (p := p) (j := j) hj (by omega), ← hr, hv]
      rfl
    · rintro m range n (⟨rfl, base, rfl, rfl⟩ | ⟨rfl, rfl, rfl⟩ | ⟨rfl, base, rfl, rfl⟩ | ⟨rfl, rfl⟩) <;>
        exact s.readWord_member ho (by rw [← hr]; rfl) (by rw [← hr]; rfl) (by rw [← hr]; rfl)
  · subst hw
    exact ⟨s.readWord_window (j := 0) (by decide) rfl, s.readWord_window (j := 1) (by decide) (by omega),
      (s.readWord_window (j := 2) (by decide) (by omega)).trans (Window.word_two _),
      s.readWord_window (j := 3) (by decide) (by omega)⟩
  · subst hword0 hleft
    have first := s.readWord_entry (e := e) (j := 0) (by decide) rfl
    have second := s.readWord_entry (e := e) (j := 1) (off := 0x504 + 8 * e.val) (by decide) (by omega)
    refine ⟨fun he => ?_, fun c t d he => ?_, fun c d st he => ?_⟩ <;> rw [he] at first second
    · exact ⟨first, second⟩
    · exact ⟨first.trans (c.word0_eq (by decide)), second.trans (PendingEntry.waiting_word_one _ _ _ _)⟩
    · exact ⟨first.trans (c.word0_eq (by decide)), second.trans (PendingEntry.orphaned_word_one _ _ _ _)⟩
  · obtain rfl : number = Source.number := hnumber.trans (funext fun src => by cases src <;> rfl)
    refine ⟨(s.readWord_notice (i := 0) (by decide) rfl).trans s.noticeWord_zero,
      (s.readWord_notice (i := 1) (by decide) rfl).trans s.noticeWord_one, fun i hi n hn => ?_, fun i hi hn => ?_⟩
    · rw [s.readWord_notice (i := i + 2) (by omega) (by omega), s.noticeWord_place hi, hn]
      exact n.word_eq
    · rw [s.readWord_notice (i := i + 2) (by omega) (by omega), s.noticeWord_place hi, List.getElem?_eq_none hn]
      rfl
  · obtain ⟨hi, hw⟩ := getD_of_getElem? h
    have hi : i < 6 := hi
    rw [s.readWord_notice (i := i + 35) (by omega) (by omega), State.noticeWord_counter]
    exact hw
  · obtain ⟨hi, hw⟩ := getD_of_getElem? h
    have hi : i < 27 := hi
    exact (s.readWord_counter (by omega) rfl).trans hw

end Sys2Proof.Machine

namespace Sys2Proof.Machine

open Sys2Proof

/-! ### A wake on a QUIET link, and the re-listen timer (R134, R196) -/

/-- A wake by neighbour with the latch clear is honoured: the branch enters WAKING and its port trains (R134, R136). -/
theorem State.wakeByNeighbour_honoured {s : State} {b : Branch} (hpin : s.resetPin = false)
    (hq : (s.br b).port.link = .quiet) (hl : (s.br b).wakeLatch = false) :
    s.wakeByNeighbour b = s.setBr b { s.br b with
      wakeLatch := true
      state := .waking (s.now + Config.wakeTimer)
      controller := { (s.br b).controller with wakes := (s.br b).controller.wakes + 1 }
      port := (s.br b).port.train s.now
      credit := 0 } := by
  have notUp : (s.br b).port.link ≠ .up := by simp [hq]
  rw [State.wakeByNeighbour, hl, State.updBr_eq]
  refine (State.enterWaking_setBr s b _ hpin).trans ?_
  simp only [if_neg notUp]

/-- With the latch set it is refused, counted and raised, and the port listens again after 1 ms (R134, R196). -/
theorem State.wakeByNeighbour_refused {s : State} {b : Branch} (hl : (s.br b).wakeLatch = true) :
    s.wakeByNeighbour b = State.raise (.wake b) (s.setBr b { s.br b with
      controller := { (s.br b).controller with wakesRefused := (s.br b).controller.wakesRefused + 1 }
      port := { (s.br b).port with relistenTimer := some (s.now + Config.quietRelisten) } }) :=
  if_pos hl

/-- A QUIET branch port whose re-listen timer is stopped takes the wake (R196). -/
theorem exec_wakeTaken_of_listening {s : State} {b : Branch} (hq : (s.br b).port.link = .quiet)
    (ht : (s.br b).port.relistenTimer = none) : exec (.wakeTaken (.branch b)) s = .next (s.wakeByNeighbour b) :=
  congrArg Host.Outcome.next (if_pos ⟨hq, ht⟩)

/-- Branch b with the re-listen timer of its port stopped: a QUIET port then listens (R196). -/
def State.listensAgain (b : Branch) (s : State) : State :=
  s.setBr b { s.br b with port := { (s.br b).port with relistenTimer := none } }

/-- The re-listen timer runs out: the port listens again, and a far end that still signals wakes it as WAKE_TAKEN would (R196). -/
theorem exec_quietRelistenTimeout {s : State} {b : Branch} {d : Time} (hq : (s.br b).port.link = .quiet)
    (ht : (s.br b).port.relistenTimer = some d) (still : Bool) :
    exec (.quietRelistenTimeout b still) s = .next (s.runOut d fun t =>
      if still then (t.listensAgain b).wakeByNeighbour b else t.listensAgain b) := by
  show execQuietRelistenTimeout b still s = _
  rw [execQuietRelistenTimeout, hq, ht]
  rfl

/-- Settles O16: a listening port takes the wake, which the latch honours or refuses; the timer's running out makes it listen, and
what it takes then is a wake like any other. -/
theorem wakeIsHonouredOrRefused : Obligations.WakeIsHonouredOrRefused := by
  refine fun s hpin => ⟨fun hq ht => ?_, fun b hq => ⟨fun ht => ?_, fun ht => ⟨fun hl => ?_, fun hl => ?_⟩, ?_⟩⟩
  · refine congrArg Host.Outcome.next ((if_pos ⟨hq, ht⟩).trans ?_)
    simp [State.trainU, State.trained, hpin, LinkPort.train]
  · exact congrArg Host.Outcome.next (if_neg fun ⟨_, stopped⟩ => ht stopped)
  · rw [exec_wakeTaken_of_listening hq ht, State.wakeByNeighbour_honoured hpin hq hl]
    rfl
  · rw [exec_wakeTaken_of_listening hq ht, State.wakeByNeighbour_refused hl]
  · intro d ht a ha
    have listens : a = (s.advanceTo d).listensAgain b := ha
    refine ⟨fun h => ⟨?_, ?_⟩, fun h still => ?_⟩ <;> rw [exec_quietRelistenTimeout hq ht]
    · rw [State.runOut_of_reaches s d _ h, listens]
      rfl
    · rw [State.runOut_of_reaches s d _ h, listens]
      have own : ((s.advanceTo d).listensAgain b).br b =
          { s.br b with port := { (s.br b).port with relistenTimer := none } } := State.br_setBr _ b _
      exact (exec_wakeTaken_of_listening (by rw [own]; exact hq) (by rw [own])).symm
    · rw [State.runOut_of_not s d _ h]

end Sys2Proof.Machine

namespace Sys2Proof.Machine

open Sys2Proof

/-! ### The law of the notice queue, source by source (R148 to R150, R157, R160) -/

/-- What a notice says of itself: its counts are within their bounds, and the self notice has a cause (R148). -/
def Notice.Sound (n : Notice) : Prop :=
  n.merges ≤ 15 ∧ n.presentations ≤ 255 ∧ n.body ≠ .self 0

/-- The source may have a notice: it is the part itself, or an ASSIGNED position (R150, R160). -/
def State.mayNotice (s : State) : Source → Bool
  | .self => true
  | .attachment b p => (s.record b p).isAssigned

theorem State.noticeOk_iff (s : State) (n : Notice) : s.noticeOk n = true ↔ n.Sound ∧ s.mayNotice n.source = true := by
  rcases n with ⟨body, m, p⟩
  cases body <;> simp [State.noticeOk, Notice.Sound, Notice.source, State.mayNotice, and_assoc]

/-- The law of the notice queue in the midst of a happening: a source that is named may have lost its ASSIGNED record, and its
notice is yet to be removed. -/
structure State.NoticeLawBut (gone : Source → Bool) (s : State) : Prop where
  sources : (s.notices.map Notice.source).Nodup
  sound : ∀ n ∈ s.notices, n.Sound
  assigned : ∀ src ∈ s.notices.map Notice.source, gone src = false → s.mayNotice src = true
  idle : s.notices = [] → s.rePresentTimer = none ∧ s.presentationOwed = false
  slot : s.egress.countP (fun f => !f.isReply) ≤ 1

theorem State.noticeLaw_iff (s : State) : s.NoticeLaw ↔ s.NoticeLawBut fun _ => false := by
  constructor
  · rintro ⟨sources, ok, idle, slot⟩
    refine ⟨sources, fun n hn => ((s.noticeOk_iff n).1 (ok n hn)).1, fun src hsrc _ => ?_, idle, slot⟩
    obtain ⟨n, hn, rfl⟩ := List.mem_map.1 hsrc
    exact ((s.noticeOk_iff n).1 (ok n hn)).2
  · rintro ⟨sources, sound, assigned, idle, slot⟩
    exact ⟨sources, fun n hn => (s.noticeOk_iff n).2 ⟨sound n hn, assigned _ (List.mem_map_of_mem hn) rfl⟩, idle, slot⟩

/-- More sources may be named. -/
theorem State.NoticeLawBut.mono {s : State} {gone gone' : Source → Bool} (h : s.NoticeLawBut gone)
    (hg : ∀ src, gone' src = false → gone src = false) : s.NoticeLawBut gone' :=
  { h with assigned := fun src hsrc hn => h.assigned src hsrc (hg src hn) }

/-- The happening from s to t keeps the law, whichever sources are yet to lose their notices. -/
def State.KeepsNotices (s t : State) : Prop :=
  ∀ gone : Source → Bool, s.NoticeLawBut gone → t.NoticeLawBut gone

theorem State.KeepsNotices.trans {s t u : State} (h : s.KeepsNotices t) (g : t.KeepsNotices u) : s.KeepsNotices u :=
  fun gone hs => g gone (h gone hs)

/-- The same, the later happening first. -/
theorem State.KeepsNotices.after {s t u : State} (g : t.KeepsNotices u) (h : s.KeepsNotices t) : s.KeepsNotices u :=
  h.trans g

/-- What the law looks at: the notice unit, the ATTENTION frames that wait, and the records. -/
def State.noticeView (s : State) :
    List Notice × Option Time × Bool × Nat × (Branch → Vector Record 8) :=
  (s.notices, s.rePresentTimer, s.presentationOwed, s.egress.countP (fun f => !f.isReply), fun b => (s.br b).records)

theorem State.KeepsNotices.of_view {s t : State} (h : t.noticeView = s.noticeView) : s.KeepsNotices t := by
  simp only [State.noticeView, Prod.mk.injEq] at h
  obtain ⟨notices, timer, owed, slot, records⟩ := h
  have may : t.mayNotice = s.mayNotice := funext fun src => by
    cases src with
    | self => rfl
    | attachment b p => exact congrArg (fun r : Branch → Vector Record 8 => (r b)[p].isAssigned) records
  exact fun gone law => ⟨notices ▸ law.sources, notices ▸ law.sound, by rw [notices, may]; exact law.assigned,
    by rw [notices, timer, owed]; exact law.idle, slot ▸ law.slot⟩

theorem State.KeepsNotices.refl (s : State) : s.KeepsNotices s :=
  .of_view rfl

/-! ### What leaves the notices and the records as they were -/

theorem State.noticeView_updBr (s : State) (b : Branch) (f : BranchUnit → BranchUnit)
    (h : (f (s.br b)).records = (s.br b).records) : (s.updBr b f).noticeView = s.noticeView := by
  have records : (fun c => ((s.updBr b f).br c).records) = fun c => (s.br c).records := funext fun c => by
    rw [State.updBr_eq, State.br_setBr_eq]
    split
    · rename_i e; rw [h, e]
    · rfl
  simp only [State.noticeView, records, State.updBr_notices, State.updBr_rePresentTimer, State.updBr_presentationOwed,
    State.updBr_egress]

@[simp] theorem State.noticeView_hand (s : State) (b : Branch) (f : BranchFrame) : (s.hand b f).noticeView = s.noticeView :=
  s.noticeView_updBr b _ (by split <;> rfl)

@[simp] theorem State.noticeView_trainBranch (s : State) (b : Branch) : (s.trainBranch b).noticeView = s.noticeView :=
  s.noticeView_updBr b _ rfl

@[simp] theorem State.noticeView_goodFrameOn (s : State) (b : Branch) : (s.goodFrameOn b).noticeView = s.noticeView :=
  s.noticeView_updBr b _ rfl

@[simp] theorem State.noticeView_discardOn (s : State) (b : Branch) : (s.discardOn b).noticeView = s.noticeView :=
  s.noticeView_updBr b _ rfl

@[simp] theorem State.noticeView_countUnexpected (s : State) (b : Branch) :
    (s.countUnexpected b).noticeView = s.noticeView :=
  s.noticeView_updBr b _ rfl

@[simp] theorem State.noticeView_stopEnumeration (s : State) (b : Branch) (o : EnumOutcome) :
    (s.stopEnumeration b o).noticeView = s.noticeView :=
  s.noticeView_updBr b _ rfl

@[simp] theorem State.noticeView_abortEnumeration (s : State) (b : Branch) :
    (s.abortEnumeration b).noticeView = s.noticeView := by
  rw [State.abortEnumeration_eq]
  exact s.noticeView_updBr b _ rfl

@[simp] theorem State.noticeView_beginStep (s : State) (b : Branch) : (s.beginStep b).noticeView = s.noticeView := by
  rw [State.beginStep, State.noticeView_hand]
  exact s.noticeView_updBr b _ rfl

@[simp] theorem State.noticeView_startEnumeration (s : State) (b : Branch) :
    (s.startEnumeration b).noticeView = s.noticeView := by
  rw [State.startEnumeration, State.noticeView_beginStep]
  exact s.noticeView_updBr b _ rfl

@[simp] theorem State.noticeView_enterWaking (s : State) (b : Branch) : (s.enterWaking b).noticeView = s.noticeView := by
  rw [State.enterWaking_eq]
  exact s.noticeView_updBr b _ rfl

@[simp] theorem State.noticeView_updPort (s : State) (p : Port) (f : LinkPort → LinkPort) :
    (s.updPort p f).noticeView = s.noticeView := by
  cases p with
  | u => rfl
  | branch b => exact s.noticeView_updBr b (fun u => { u with port := f u.port }) rfl

@[simp] theorem State.noticeView_emptyQueue (s : State) (b : Branch) : (s.emptyQueue b).noticeView = s.noticeView :=
  s.noticeView_updBr b _ rfl

@[simp] theorem State.noticeView_popSlot (s : State) (b : Branch) : (s.popSlot b).noticeView = s.noticeView :=
  s.noticeView_updBr b _ rfl

@[simp] theorem State.noticeView_freeEntries (s : State) (b : Branch) : (s.freeEntries b).noticeView = s.noticeView := rfl

@[simp] theorem State.noticeView_orphanWaiting (s : State) (b : Branch) (sel : Carried → Bool) (st : Status) :
    (s.orphanWaiting b sel st).noticeView = s.noticeView := rfl

@[simp] theorem State.noticeView_signalWakeU (s : State) : s.signalWakeU.noticeView = s.noticeView := by
  simp [State.noticeView]

/-- A REPLY is no ATTENTION frame. -/
@[simp] theorem State.noticeView_placeReply (s : State) (t : UTag) (st : Status) (d : Byte) (ws : List Word) :
    (s.placeReply t st d ws).noticeView = s.noticeView := by
  simp [State.noticeView, EgressFrame.isReply]

@[simp] theorem State.noticeView_answer (s : State) (h : ReqHeader) (st : Status) :
    (s.answer h st).noticeView = s.noticeView := by
  cases h with
  | tagged k t => exact s.noticeView_placeReply t st 0 []
  | post => rfl

@[simp] theorem State.noticeView_answerAll (s : State) (hs : List ReqHeader) (st : Status) :
    (s.answerAll hs st).noticeView = s.noticeView := by
  induction hs generalizing s with
  | nil => rfl
  | cons h hs ih => exact (ih (s.answer h st)).trans (s.noticeView_answer h st)

@[simp] theorem State.noticeView_judgeDrain (s : State) (b : Branch) : (s.judgeDrain b).noticeView = s.noticeView := by
  unfold State.judgeDrain State.completeDrain
  split
  · rw [State.noticeView_hand, State.noticeView_freeEntries]
    exact s.noticeView_updBr b _ rfl
  · rfl

/-- A change of every branch that leaves its records. -/
theorem State.noticeView_mapBranches {s t : State} (f : Branch → BranchUnit → BranchUnit)
    (hf : ∀ b u, (f b u).records = u.records) (hb : t.branches = mapTable f s.branches) (hn : t.notices = s.notices)
    (ht : t.rePresentTimer = s.rePresentTimer) (ho : t.presentationOwed = s.presentationOwed)
    (he : t.egress = s.egress) : t.noticeView = s.noticeView := by
  have records : (fun b => (t.br b).records) = fun b => (s.br b).records := funext fun b => by
    rw [State.br, hb]
    exact (congrArg BranchUnit.records (mapTable_get _ _ _)).trans (hf b _)
  simp only [State.noticeView, records, hn, ht, ho, he]

@[simp] theorem State.noticeView_zeroCounters (s : State) : s.zeroCounters.noticeView = s.noticeView :=
  State.noticeView_mapBranches (fun _ u => u.zeroCounters) (fun _ _ => rfl) rfl rfl rfl rfl rfl

/-! ### Presenting, joining and merging (R148, R150, R153 to R157) -/

theorem Notice.Sound.present {n : Notice} (h : n.Sound) : n.present.Sound :=
  have ⟨merged, _, caused⟩ := h
  ⟨merged, Nat.min_le_left _ _, caused⟩

/-- A notice merged into keeps a cause where it had one. -/
theorem Notice.Sound.merge {n : Notice} (h : n.Sound) (c : CauseSet) : (n.addCauses c).merge.Sound := by
  rcases n with ⟨body, m, p⟩
  obtain ⟨-, presented, caused⟩ := h
  cases body with
  | self cs =>
    refine ⟨Nat.min_le_left _ _, presented, fun e => caused ?_⟩
    exact congrArg NoticeBody.self (BitVec.or_eq_zero_iff.1 (NoticeBody.self.inj e)).1
  | attachment b q k => exact ⟨Nat.min_le_left _ _, presented, caused⟩

theorem Cause.toSet_ne_zero (c : Cause) : c.toSet ≠ 0 := by
  cases c <;> decide +revert

/-- Which sources may have notices rests on the branches alone. -/
theorem State.mayNotice_of_branches {s t : State} (h : t.branches = s.branches) (src : Source) :
    t.mayNotice src = s.mayNotice src := by
  cases src <;> simp [State.mayNotice, State.record, State.br, h]

/-- A change of the notice unit that leaves the sources of the notices. -/
theorem State.NoticeLawBut.of_sources {s t : State} {gone : Source → Bool} (h : s.NoticeLawBut gone)
    (hb : t.branches = s.branches) (hsrc : t.notices.map Notice.source = s.notices.map Notice.source)
    (sound : ∀ n ∈ t.notices, n.Sound) (idle : t.notices = [] → t.rePresentTimer = none ∧ t.presentationOwed = false)
    (slot : t.egress.countP (fun f => !f.isReply) ≤ 1) : t.NoticeLawBut gone :=
  ⟨hsrc ▸ h.sources, sound,
    fun src hm hg => (State.mayNotice_of_branches hb src).trans (h.assigned src (hsrc ▸ hm) hg), idle, slot⟩

theorem State.presentationDue_keepsNotices (s : State) : s.KeepsNotices s.presentationDue := by
  intro gone law
  cases hn : s.notices with
  | nil => rw [s.presentationDue_nil hn]; exact law
  | cons h rest =>
    have busy : s.notices ≠ [] := by simp [hn]
    by_cases hm : s.member = none
    · rw [s.presentationDue_deferred h rest hn hm]
      exact law.of_sources rfl rfl law.sound (fun e => absurd e busy) law.slot
    · by_cases hf : s.noticeSlotFull = true
      · rw [s.presentationDue_skipped h rest hn hm hf]
        exact law.of_sources rfl rfl law.sound (fun e => absurd e busy) law.slot
      · have free : s.egress.countP (fun f => !f.isReply) = 0 := by
          simpa [State.noticeSlotFull, List.countP_eq_zero] using hf
        obtain ⟨hsound, rsound⟩ := List.forall_mem_cons.1 (hn ▸ law.sound)
        rw [s.presentationDue_made h rest hn hm (by simpa using hf)]
        refine law.of_sources (by simp) (by simp [hn]) ?_ (by simp) ?_
        · rw [State.placeEgress_notices]
          exact List.forall_mem_cons.2 ⟨hsound.present, rsound⟩
        · rw [State.placeEgress_egress, List.countP_append]
          exact (Nat.add_le_add_right free.le _).trans (by simp [EgressFrame.isReply])

/-- A merge leaves the sources of the notices. -/
theorem State.mergeNotice_sources (s : State) (src : Source) (c : CauseSet) :
    (s.mergeNotice src c).notices.map Notice.source = s.notices.map Notice.source := by
  rw [State.mergeNotice, List.map_map]
  refine List.map_congr_left fun n _ => ?_
  rw [Function.comp_apply]
  split <;> simp

theorem State.mergeNotice_keepsNotices (s : State) (src : Source) (c : CauseSet) : s.KeepsNotices (s.mergeNotice src c) := by
  intro gone law
  refine law.of_sources rfl (s.mergeNotice_sources src c) (List.forall_mem_map.2 fun n hn => ?_)
    (fun e => law.idle (List.map_eq_nil_iff.1 e)) law.slot
  split
  · exact (law.sound n hn).merge c
  · exact law.sound n hn

/-- A sound notice joins, of a source that may have one and has none (R149, R150, R153). -/
theorem State.NoticeLawBut.joinNotice {s : State} {gone : Source → Bool} (h : s.NoticeLawBut gone) {n : Notice}
    (hn : n = ⟨n.body, 0, 0⟩) (sound : n.Sound) (hs : s.hasNotice n.source = false) (may : s.mayNotice n.source = true) :
    (s.joinNotice n.body).NoticeLawBut gone := by
  have fresh : n.source ∉ s.notices.map Notice.source := fun hm =>
    Bool.false_ne_true (hs.symm.trans ((s.hasNotice_iff _).2 hm))
  have joined : State.NoticeLawBut gone { s with
      notices := s.notices ++ [⟨n.body, 0, 0⟩]
      noticeUnit := { s.noticeUnit with joined := s.noticeUnit.joined + 1 } } := by
    rw [← hn]
    refine ⟨?_, List.forall_mem_append.2 ⟨h.sound, by simpa using sound⟩, ?_, fun e => absurd e (by simp), h.slot⟩
    · rw [List.map_append, List.nodup_append]
      refine ⟨h.sources, by simp, fun x hx y hy e => fresh ?_⟩
      rwa [← List.mem_singleton.1 hy, ← e]
    · rw [List.map_append]
      exact List.forall_mem_append.2 ⟨h.assigned, fun src hsrc _ => List.mem_singleton.1 hsrc ▸ may⟩
  unfold State.joinNotice
  dsimp only
  split
  · exact State.presentationDue_keepsNotices _ gone joined
  · exact joined

theorem State.raise_keepsNotices (s : State) (c : Cause) : s.KeepsNotices (s.raise c) := by
  intro gone law
  unfold State.raise
  split
  · exact s.mergeNotice_keepsNotices .self c.toSet gone law
  · rename_i hs
    exact law.joinNotice (n := ⟨.self c.toSet, 0, 0⟩) rfl
      ⟨Nat.zero_le _, Nat.zero_le _, fun e => c.toSet_ne_zero (NoticeBody.self.inj e)⟩ (by simpa [Notice.source] using hs) rfl

theorem State.raiseEnumIf_keepsNotices (s : State) (w : Bool) (b : Branch) : s.KeepsNotices (s.raiseEnumIf w b) := by
  cases w
  · exact .refl s
  · exact s.raise_keepsNotices _

theorem State.endEnumeration_keepsNotices (s : State) (b : Branch) (o : EnumOutcome) :
    s.KeepsNotices (s.endEnumeration b o) :=
  .after (State.raise_keepsNotices _ _) (.of_view (s.noticeView_stopEnumeration b o))

/-! ### Removing (R158 to R161) -/

/-- The notices kept, of sources that had one, each once. -/
theorem State.NoticeLawBut.afterRemoval {s : State} {gone gone' : Source → Bool} (h : s.NoticeLawBut gone)
    {kept : List Notice} (sources : (kept.map Notice.source).Nodup) (sound : ∀ n ∈ kept, n.Sound)
    (assigned : ∀ src ∈ kept.map Notice.source, src ∈ s.notices.map Notice.source ∧ (gone' src = false → gone src = false))
    (headGone : Bool) : (s.afterRemoval kept headGone).NoticeLawBut gone' := by
  unfold State.afterRemoval
  split
  · exact ⟨List.nodup_nil, fun _ hn => (nomatch hn), fun _ hn => (nomatch hn), fun _ => ⟨rfl, rfl⟩, h.slot⟩
  · rename_i hk
    have left : State.NoticeLawBut gone' { s with notices := kept } := by
      refine ⟨sources, sound, fun src hsrc hg => ?_, fun e => absurd e hk, h.slot⟩
      obtain ⟨had, mono⟩ := assigned src hsrc
      exact (State.mayNotice_of_branches rfl src).trans (h.assigned src had (mono hg))
    split
    · exact State.presentationDue_keepsNotices _ gone' left
    · exact left

/-- Once the notices of the sources named are removed, the law rests on those sources no more. -/
theorem State.NoticeLawBut.removeNotices {s : State} {gone gone' : Source → Bool}
    (h : s.NoticeLawBut fun src => gone src || gone' src) : (s.removeNotices gone').NoticeLawBut gone := by
  unfold State.removeNotices
  split
  · rename_i hn
    exact { h with assigned := fun src hsrc => by rw [hn] at hsrc; exact nomatch hsrc }
  · refine h.afterRemoval (h.sources.sublist (List.filter_sublist.map _)) (fun n hn => h.sound n (List.mem_filter.1 hn).1)
      (fun src hsrc => ?_) _
    obtain ⟨n, hn, rfl⟩ := List.mem_map.1 hsrc
    obtain ⟨hn, stays⟩ := List.mem_filter.1 hn
    exact ⟨List.mem_map_of_mem hn, fun hg => by simpa [hg] using stays⟩

theorem State.removeNotices_keepsNotices (s : State) (gone' : Source → Bool) : s.KeepsNotices (s.removeNotices gone') :=
  fun _ law => State.NoticeLawBut.removeNotices (law.mono fun _ h => (Bool.or_eq_false_iff.1 h).1)

/-- The doings of a branch event in the notice unit make up for the records that the event has lost. -/
theorem State.NoticeLawBut.doings {s : State} {gone : Source → Bool} {b : Branch} {lost : Position → Bool}
    (h : s.NoticeLawBut fun src => gone src || Source.isOf b lost src) (ended : Bool) (cause : Option Cause) :
    (noticeDoings b lost ended cause s).NoticeLawBut gone := by
  have raised : s.KeepsNotices (cause.elim s fun c => s.raise c) := by
    cases cause with
    | none => exact .refl s
    | some c => exact s.raise_keepsNotices c
  rw [noticeDoings, State.removeNoticesOf_eq]
  exact State.NoticeLawBut.removeNotices (State.raiseEnumIf_keepsNotices _ ended b _ (raised _ h))

/-- So do the whole of its doings, in either order (assumption 3). -/
theorem State.NoticeLawBut.branchEvent {s : State} {gone : Source → Bool} {b : Branch} {lost : Position → Bool}
    (h : s.NoticeLawBut fun src => gone src || Source.isOf b lost src) (hs : List ReqHeader) (st : Status) (ended : Bool)
    (cause : Option Cause) :
    (s.inOpenOrder (State.answerAll hs st) (noticeDoings b lost ended cause)).NoticeLawBut gone := by
  have answered : ∀ x : State, x.KeepsNotices (x.answerAll hs st) := fun x => .of_view (x.noticeView_answerAll hs st)
  have counted : s.KeepsNotices { s with choices := s.choices + 1 } := .of_view rfl
  rcases State.inOpenOrder_cases (State.answerAll hs st) (noticeDoings b lost ended cause) s with e | e <;> rw [e]
  · exact answered _ _ ((counted _ h).doings ended cause)
  · exact State.NoticeLawBut.doings (answered _ _ (counted _ h)) ended cause

/-! ### Records that are changed (R112, R113, R115, R117) -/

/-- A change of a branch, after which the positions named may no longer be ASSIGNED. -/
theorem State.NoticeLawBut.updBr {s : State} {gone : Source → Bool} (h : s.NoticeLawBut gone) (b : Branch)
    (f : BranchUnit → BranchUnit) (lost : Position → Bool)
    (hf : ∀ p, lost p = false → (s.record b p).isAssigned = true → ((f (s.br b)).records[p]).isAssigned = true) :
    (s.updBr b f).NoticeLawBut fun src => gone src || Source.isOf b lost src := by
  refine { h with assigned := fun src hsrc hg => ?_ }
  obtain ⟨hgone, hlost⟩ := Bool.or_eq_false_iff.1 hg
  have may := h.assigned src hsrc hgone
  cases src with
  | self => rfl
  | attachment c p =>
    show (((s.updBr b f).br c).records[p]).isAssigned = true
    by_cases hc : c = b
    · subst hc
      rw [State.br_updBr]
      exact hf p (by simpa [Source.isOf] using hlost) may
    · rw [State.br_updBr_ne s f hc]
      exact may

/-- A change of a branch that leaves ASSIGNED records ASSIGNED. -/
theorem State.updBr_keepsNotices (s : State) (b : Branch) (f : BranchUnit → BranchUnit)
    (hf : ∀ p, (s.record b p).isAssigned = true → ((f (s.br b)).records[p]).isAssigned = true) :
    s.KeepsNotices (s.updBr b f) := by
  refine fun gone law => (law.updBr b f (fun _ => false) fun p _ => hf p).mono fun src hg => ?_
  cases src <;> simp [Source.isOf, hg]

/-- A record is replaced, an ASSIGNED one by an ASSIGNED one. -/
theorem State.setRecord_keepsNotices (s : State) (b : Branch) (p : Position) (r : Record)
    (h : (s.record b p).isAssigned = true → r.isAssigned = true) : s.KeepsNotices (s.setRecord b p r) := by
  refine s.updBr_keepsNotices b _ fun q hq => ?_
  rw [records_set_get]
  split
  · rename_i e; exact h (e ▸ hq)
  · exact hq

end Sys2Proof.Machine

namespace Sys2Proof.Machine

open Sys2Proof

/-! ### The events of a branch -/

theorem Record.losable_of_isAssigned {r : Record} (h : r.isAssigned = true) : r.losable = true := by
  cases r <;> simp_all [Record.isAssigned, Record.losable]

/-- The records that are made LOST are those selected (R112, R115). -/
theorem State.NoticeLawBut.loseRecords {s : State} {gone : Source → Bool} (h : s.NoticeLawBut gone) (b : Branch)
    (sel lost : Position → Bool) (hl : ∀ p, sel p = true → (s.record b p).isAssigned = true → lost p = true) :
    (s.loseRecords b sel).NoticeLawBut fun src => gone src || Source.isOf b lost src := by
  refine h.updBr b _ lost fun p stays hp => ?_
  rw [mapTable_get]
  split
  · rename_i hs
    exact absurd (hl p hs hp) (by simp [stays])
  · exact hp

/-- A branch event, from the state that its records have been lost in. -/
theorem State.KeepsNotices.of_event {s x : State} {b : Branch} {lost : Position → Bool}
    (h : ∀ gone, s.NoticeLawBut gone → x.NoticeLawBut fun src => gone src || Source.isOf b lost src) (hs : List ReqHeader)
    (st : Status) (ended : Bool) (cause : Option Cause) :
    s.KeepsNotices (x.inOpenOrder (State.answerAll hs st) (noticeDoings b lost ended cause)) :=
  fun gone law => (h gone law).branchEvent hs st ended cause

/-- A branch whose queue is emptied and whose entries are freed, with its records then made LOST. -/
theorem State.NoticeLawBut.emptiedAndLost {s : State} {gone : Source → Bool} (h : s.NoticeLawBut gone) (b : Branch) :
    (State.loseRecords b (fun _ => true) (State.freeEntries b (s.emptyQueue b))).NoticeLawBut fun src =>
      gone src || Source.isOf b (fun p => (s.record b p).losable) src := by
  have emptied : s.KeepsNotices (State.freeEntries b (s.emptyQueue b)) :=
    .of_view (by rw [State.noticeView_freeEntries, State.noticeView_emptyQueue])
  refine (emptied _ h).loseRecords b _ _ fun p _ hp => Record.losable_of_isAssigned ?_
  rwa [State.record, State.freeEntries_br, State.emptyQueue, State.br_updBr] at hp

theorem State.branchLinkLoss_keepsNotices (s : State) (b : Branch) : s.KeepsNotices (s.branchLinkLoss b) := by
  rw [State.branchLinkLoss_event]
  refine .of_event (fun gone law => ?_) _ _ _ _
  refine State.KeepsNotices.of_view ?_ _ (law.emptiedAndLost b)
  rw [State.noticeView_updBr _ b _ rfl, State.noticeView_abortEnumeration]

theorem State.wakeFails_keepsNotices (s : State) (b : Branch) : s.KeepsNotices (s.wakeFails b) := by
  rw [State.wakeFails_event]
  exact .of_event (fun gone law => State.KeepsNotices.of_view (State.noticeView_updBr _ b _ rfl) _ (law.emptiedAndLost b))
    _ _ _ _

theorem State.takeBreak_keepsNotices (s : State) (b : Branch) (k : Nat) : s.KeepsNotices (s.takeBreak b k) := by
  rw [State.takeBreak_event]
  refine .after (.of_view (State.noticeView_judgeDrain _ b)) (.of_event (fun gone law => ?_) _ _ _ _)
  have orphaned := State.KeepsNotices.of_view (s.noticeView_orphanWaiting b (fun c => decide (k < c.position.val)) .lost)
  refine State.KeepsNotices.of_view ?_ _ ((orphaned _ law).loseRecords b _ _ fun _ hp _ => hp)
  rw [State.noticeView_updBr _ b _ rfl, State.noticeView_updBr _ b _ rfl]

theorem State.noticeView_resetBranchState (s : State) (b : Branch) : (s.resetBranchState b).noticeView = s.noticeView := by
  have active := s.noticeView_updBr b (fun u => { u with state := .active }) rfl
  unfold State.resetBranchState
  dsimp only
  cases (s.br b).state with
  | active | draining =>
    dsimp only
    split
    · exact active
    · exact (State.noticeView_hand _ b _).trans active
  | dormant | failed => exact s.noticeView_enterWaking b
  | waking | down => rfl

/-- A BRANCH-RESET vacates every record of its branch and removes every notice of it (R117, R140). -/
theorem State.resetBranch_keepsNotices (s : State) (b : Branch) : s.KeepsNotices (s.resetBranch b) := by
  rw [State.resetBranch_event]
  refine .of_event (fun gone law => ?_) _ _ _ _
  have emptied : s.KeepsNotices (State.orphanWaiting b (fun _ => true) .flushed (s.emptyQueue b)) :=
    .of_view (by rw [State.noticeView_orphanWaiting, State.noticeView_emptyQueue])
  have vacated := (emptied _ law).updBr b (fun u => { u with records := Vector.replicate 8 Record.vacant }) (fun _ => true)
    fun p hp => nomatch hp
  refine State.KeepsNotices.of_view ?_ _ vacated
  rw [State.noticeView_resetBranchState, State.noticeView_updBr _ b _ rfl, State.noticeView_abortEnumeration]
  rfl

theorem State.releaseRecord_keepsNotices (s : State) (b : Branch) (p : Position) : s.KeepsNotices (s.releaseRecord b p) := by
  intro gone law
  unfold State.releaseRecord
  dsimp only
  rw [State.removeNoticesOf_eq]
  refine State.NoticeLawBut.removeNotices (State.NoticeLawBut.updBr (State.KeepsNotices.of_view ?_ _ law) b _ (· == p)
    fun q hq ha => ?_)
  · split
    · exact s.noticeView_hand b _
    all_goals rfl
  · rw [records_set_get, if_neg (by simpa using hq)]
    exact ha

/-! ### Resets and links -/

/-- A link reset leaves no notice and no frame (R163, R173). -/
theorem State.linkReset_keepsNotices (s : State) : s.KeepsNotices s.linkReset :=
  fun _ _ => ⟨List.nodup_nil, fun _ h => (nomatch h), fun _ h => (nomatch h), fun _ => ⟨rfl, rfl⟩, Nat.zero_le _⟩

theorem State.uLinkLoss_keepsNotices (s : State) : s.KeepsNotices s.uLinkLoss :=
  have counted : s.KeepsNotices { s with upstream := { s.upstream with linkLosses := s.upstream.linkLosses + 1 } } :=
    .of_view rfl
  (counted.trans (State.linkReset_keepsNotices _)).trans (.of_view rfl)

theorem State.branchLeavesUp_keepsNotices (s : State) (b : Branch) : s.KeepsNotices (s.branchLeavesUp b) := by
  have trained : s.KeepsNotices (State.trainBranch b (s.updBr b fun u => { u with unsent := [] })) :=
    .of_view ((State.noticeView_trainBranch _ b).trans (s.noticeView_updBr b _ rfl))
  unfold State.branchLeavesUp
  dsimp only
  split
  · exact trained.trans (State.branchLinkLoss_keepsNotices _ b)
  · exact trained

theorem State.leaveUp_keepsNotices (s : State) (p : Port) : s.KeepsNotices (s.leaveUp p) := by
  cases p with
  | u => exact s.uLinkLoss_keepsNotices
  | branch b => exact s.branchLeavesUp_keepsNotices b

theorem State.departure_keepsNotices (s : State) (p : Port) : s.KeepsNotices (s.departure p) := by
  unfold State.departure
  split
  · exact s.leaveUp_keepsNotices p
  · exact .refl s

theorem State.receiveBad_keepsNotices (s : State) (p : Port) : s.KeepsNotices (s.receiveBad p) := by
  have counted : s.KeepsNotices (s.updPort p LinkPort.countBad) := .of_view (s.noticeView_updPort p _)
  unfold State.receiveBad
  dsimp only
  split
  · split
    · exact counted
    · have risen := counted.trans (.of_view (State.noticeView_updPort _ p fun q => { q with badRun := (s.portOf p).badRun + 1 }))
      split
      · exact risen.trans (State.leaveUp_keepsNotices _ p)
      · exact risen
  · split
    · exact counted
    · exact .refl s
  · exact counted
  · exact .refl s

theorem State.noticeView_branchEntersUp (s : State) (b : Branch) : (s.branchEntersUp b).noticeView = s.noticeView := by
  unfold State.branchEntersUp
  dsimp only
  split
  · exact (State.noticeView_hand _ b .clear).trans (s.noticeView_updBr b _ rfl)
  · exact s.noticeView_updBr b _ rfl

theorem State.noticeView_afterHush (s : State) (b : Branch) : (s.afterHush b).noticeView = s.noticeView := by
  unfold State.afterHush
  cases (s.br b).state with
  | waking => exact s.noticeView_trainBranch b
  | down | active | draining | dormant | failed => exact s.noticeView_updBr b _ rfl

theorem State.noticeView_receiveCredit (s : State) (b : Branch) (n : Byte) :
    (s.receiveCredit b n).noticeView = s.noticeView := by
  unfold State.receiveCredit
  dsimp only
  split
  · exact s.noticeView_updBr b _ (by split <;> rfl)
  · exact s.noticeView_discardOn b

/-- A wake by neighbour that is refused raises its cause (R134). -/
theorem State.wakeByNeighbour_keepsNotices (s : State) (b : Branch) : s.KeepsNotices (s.wakeByNeighbour b) := by
  unfold State.wakeByNeighbour
  split
  · exact .after (State.raise_keepsNotices _ _) (.of_view (s.noticeView_updBr b _ rfl))
  · exact .of_view ((State.noticeView_enterWaking _ b).trans (s.noticeView_updBr b _ rfl))

theorem State.noticeView_receiveRequest (s : State) (r : Request) : (s.receiveRequest r).noticeView = s.noticeView := by
  unfold State.receiveRequest
  split <;> rfl

theorem State.onU_keepsNotices (s : State) (take : State → State) (h : ∀ x : State, x.KeepsNotices (take x)) :
    s.KeepsNotices (s.onU take) := by
  unfold State.onU
  split
  · exact .after (h _) (.of_view rfl)
  · exact .refl s

theorem State.onBranch_keepsNotices (s : State) (b : Branch) (take : State → State)
    (h : (s.goodFrameOn b).KeepsNotices (take (s.goodFrameOn b))) : s.KeepsNotices (s.onBranch b take) := by
  unfold State.onBranch
  split
  · exact .after h (.of_view (s.noticeView_goodFrameOn b))
  · exact .refl s

theorem State.onFrame_keepsNotices (s : State) (p : Port) (data : List Word) (take : State → State)
    (h : s.KeepsNotices (take s)) : s.KeepsNotices (s.onFrame p data take) := by
  unfold State.onFrame
  split
  · exact s.receiveBad_keepsNotices p
  · exact h

theorem State.runOut_keepsNotices (s : State) (d : Time) (act : State → State)
    (h : (s.advanceTo d).KeepsNotices (act (s.advanceTo d))) : s.KeepsNotices (s.runOut d act) := by
  unfold State.runOut
  split
  · exact .after h (.of_view rfl)
  · exact .refl s

/-! ### Forwarder and tracker -/

theorem State.noticeView_failRecheck (s : State) (b : Branch) (q : Slot) : (s.failRecheck b q).noticeView = s.noticeView := by
  rw [State.failRecheck, State.noticeView_judgeDrain, State.noticeView_answer, State.noticeView_updBr _ b _ rfl,
    State.noticeView_popSlot]

theorem State.noticeView_sendHead (s : State) (b : Branch) (f : BranchFrame) : (s.sendHead b f).noticeView = s.noticeView := by
  rw [State.sendHead, State.noticeView_hand, State.noticeView_updBr _ b _ rfl, State.noticeView_popSlot]

theorem State.noticeView_issueHead (s : State) (b : Branch) : (s.issueHead b).noticeView = s.noticeView := by
  by_cases hm : (s.br b).mayIssue = true
  · cases hq : (s.br b).queue with
    | nil => rw [State.issueHead, hq]
    | cons q rest =>
      cases hh : q.hdr with
      | post =>
        rw [State.issueHead_post hq hm hh]
        split
        · rw [State.issuePost, State.noticeView_judgeDrain, State.noticeView_sendHead]
        · exact s.noticeView_failRecheck b q
      | tagged k ut =>
        cases hroom : s.issueRoom b with
        | none => rw [State.issueHead_tagged_none hq hm hh hroom]
        | some room =>
          rw [State.issueHead_tagged_some hq hm hh hroom]
          split
          · exact (State.noticeView_sendHead _ b _).trans rfl
          · exact s.noticeView_failRecheck b q
  · rw [State.issueHead_of_not_mayIssue (by simpa using hm)]

theorem State.noticeView_ageSlots (s : State) (b : Branch) : (s.ageSlots b).noticeView = s.noticeView := by
  rw [State.ageSlots, State.noticeView_judgeDrain, State.noticeView_answerAll]
  exact s.noticeView_updBr b _ rfl

theorem State.noticeView_passUpward (s : State) (c : Carried) (ut : UTag) (status detail : Byte) (data : List Word) :
    (s.passUpward c ut status detail data).noticeView = s.noticeView := by
  unfold State.passUpward
  split
  · exact s.noticeView_placeReply _ _ _ _
  · exact (State.noticeView_placeReply _ _ _ _ _).trans rfl

theorem State.noticeView_takeReply (s : State) (b : Branch) (tag : UTag) (status detail : Byte) (data : List Word) :
    (s.takeReply b tag status detail data).noticeView = s.noticeView := by
  unfold State.takeReply
  split
  · rfl
  · split
    · rfl
    · rw [State.noticeView_judgeDrain, State.noticeView_passUpward]; rfl
    · rfl

theorem State.noticeView_replyTimedOut (s : State) (e : EntryIx) (c : Carried) (ut : UTag) :
    (s.replyTimedOut e c ut).noticeView = s.noticeView := by
  rw [State.replyTimedOut, State.noticeView_judgeDrain, State.noticeView_placeReply]
  rfl

/-! ### Chain controller (R95, R102 to R105) -/

/-- The record at the working position is not ASSIGNED. -/
def BranchUnit.WorksUnassigned (u : BranchUnit) : Prop :=
  ∀ p : Position, u.workingPosition = some p → (u.records[p]).isAssigned = false

/-- On lawful branches it is IDENTIFIED (R97). -/
theorem BranchUnit.Lawful.worksUnassigned {pin : Bool} {u : BranchUnit} (h : u.Lawful pin) : u.WorksUnassigned := by
  obtain ⟨-, -, -, -, -, -, -, -, -, -, -, -, identified, -, -⟩ := h
  intro p hp
  have := (identified p).2 hp
  cases hr : u.records[p] <;> simp_all [Record.isIdentified, Record.isAssigned]

theorem State.assignRange_keepsNotices (s : State) (b : Branch) (p : Position) (m : Member) (base : Word)
    (h : (s.record b p).isAssigned = false) : s.KeepsNotices (s.assignRange b p m base) := by
  refine .after (.of_view (State.noticeView_hand _ b _)) <| .after (.of_view (State.noticeView_updBr _ b _ rfl)) <|
    s.setRecord_keepsNotices b p _ fun ha => absurd ha (by simp [h])

theorem State.placeMember_keepsNotices (s : State) (b : Branch) (p : Position) (m : Member)
    (h : (s.record b p).isAssigned = false) : s.KeepsNotices (s.placeMember b p m) := by
  unfold State.placeMember
  split
  · exact s.assignRange_keepsNotices b p m _ h
  · exact .after (State.endEnumeration_keepsNotices _ b _) (s.setRecord_keepsNotices b p _ fun ha => absurd ha (by simp [h]))

theorem State.takeDescriptorAt_keepsNotices (s : State) (b : Branch) (p : Position) (m : Member) :
    s.KeepsNotices (s.takeDescriptorAt b p m) := by
  unfold State.takeDescriptorAt
  cases hr : s.record b p with
  | assigned => exact s.endEnumeration_keepsNotices b _
  | vacant | identified | unplaced => exact s.placeMember_keepsNotices b p m (by rw [hr]; rfl)
  | lost old range =>
    dsimp only
    split
    · have counted := State.noticeView_updBr s b
        (fun u => { u with chain := { u.chain with reclaimed := u.chain.reclaimed + 1 } }) rfl
      refine .after (State.assignRange_keepsNotices _ b p m _ ?_) (.of_view counted)
      rw [State.record, State.br_updBr]
      exact congrArg Record.isAssigned hr
    · exact s.placeMember_keepsNotices b p m (by rw [hr]; rfl)

theorem State.takeDescriptor_keepsNotices (s : State) (b : Branch) (m : Member) (hop : Byte) :
    s.KeepsNotices (s.takeDescriptor b m hop) := by
  unfold State.takeDescriptor
  split
  · split
    · exact s.endEnumeration_keepsNotices b _
    · exact s.takeDescriptorAt_keepsNotices b _ m
  · exact .of_view (s.noticeView_countUnexpected b)
  · exact .of_view (s.noticeView_countUnexpected b)

/-- The record at the working position is vacated, and the enumeration ends (R103, R105). -/
theorem State.vacateWorking_keepsNotices {s : State} {b : Branch} {p : Position} (hw : (s.br b).WorksUnassigned)
    (hp : (s.br b).workingPosition = some p) (o : EnumOutcome) :
    s.KeepsNotices ((s.setRecord b p .vacant).endEnumeration b o) :=
  .after (State.endEnumeration_keepsNotices _ b o) <| s.setRecord_keepsNotices b p _ fun ha =>
    absurd ha (by rw [State.record, hw p hp]; exact Bool.false_ne_true)

theorem Record.assign_isAssigned {r : Record} (h : r.isAssigned = true) : r.assign.isAssigned = true := by
  cases r <;> simp_all [Record.isAssigned, Record.assign]

/-- An ASSIGNED from elsewhere than the working position vacates the record there: this is where the law rests on a lawful
branch (R103). -/
theorem State.takeAssigned_keepsNotices {s : State} {b : Branch} (hw : (s.br b).WorksUnassigned) (hop : Byte) :
    s.KeepsNotices (s.takeAssigned b hop) := by
  unfold State.takeAssigned
  split
  · rename_i p d he
    split
    · exact .after (.of_view (State.noticeView_beginStep _ b)) <| .after (.of_view (State.noticeView_updBr _ b _ rfl)) <|
        s.setRecord_keepsNotices b p _ Record.assign_isAssigned
    · exact State.vacateWorking_keepsNotices hw (by rw [BranchUnit.workingPosition, he]) _
  · exact .of_view (s.noticeView_countUnexpected b)
  · exact .of_view (s.noticeView_countUnexpected b)

/-- So does the identify timer that runs out in an assign phase (R105). -/
theorem State.identifyTimeout_keepsNotices {s : State} {b : Branch} (hw : (s.br b).WorksUnassigned) :
    s.KeepsNotices (s.identifyTimeout b) := by
  unfold State.identifyTimeout
  split
  · exact s.runOut_keepsNotices _ _ (State.endEnumeration_keepsNotices _ b _)
  · rename_i p d he
    exact s.runOut_keepsNotices _ _ (State.vacateWorking_keepsNotices (s := s.advanceTo d) hw
      (by rw [State.advanceTo_br, BranchUnit.workingPosition, he]) _)
  · exact .refl s

theorem State.takeEmpty_keepsNotices (s : State) (b : Branch) : s.KeepsNotices (s.takeEmpty b) := by
  unfold State.takeEmpty
  split
  · exact s.endEnumeration_keepsNotices b _
  · exact .of_view (s.noticeView_countUnexpected b)
  · exact .of_view (s.noticeView_countUnexpected b)

theorem State.takeMend_keepsNotices (s : State) (b : Branch) : s.KeepsNotices (s.takeMend b) := by
  have raised : s.KeepsNotices (State.raise (.chain b)
      (s.updBr b fun v => { v with chain := { v.chain with mends := v.chain.mends + 1 } })) :=
    .after (State.raise_keepsNotices _ _) (.of_view (s.noticeView_updBr b _ rfl))
  unfold State.takeMend
  dsimp only
  split
  · exact .after (.of_view (State.noticeView_startEnumeration _ b)) raised
  · exact raised

theorem State.noticeView_clearSent (s : State) (b : Branch) : (s.clearSent b).noticeView = s.noticeView := by
  unfold State.clearSent
  dsimp only
  split
  · exact (State.noticeView_startEnumeration _ b).trans (s.noticeView_updBr b _ rfl)
  · exact s.noticeView_updBr b _ rfl

/-- An ATTENTION of an ASSIGNED position joins or merges (R150, R151). -/
theorem State.takeAttention_keepsNotices (s : State) (b : Branch) (code hop : Byte) :
    s.KeepsNotices (s.takeAttention b code hop) := by
  have discarded : s.KeepsNotices s.discardAttention := .of_view rfl
  unfold State.takeAttention
  split
  · exact discarded
  · rename_i p _
    split
    · rename_i ha
      split
      · exact s.mergeNotice_keepsNotices _ 0
      · rename_i hs
        exact fun gone law => law.joinNotice (n := ⟨.attachment b p code, 0, 0⟩) rfl
          ⟨Nat.zero_le _, Nat.zero_le _, fun e => nomatch e⟩ (by simpa [Notice.source] using hs) ha
    · exact discarded

end Sys2Proof.Machine

namespace Sys2Proof.Machine

open Sys2Proof

/-! ### The commands of the management unit -/

theorem State.noticeView_wakeBranch (s : State) (b : Branch) : (s.wakeBranch b).noticeView = s.noticeView := by
  unfold State.wakeBranch
  dsimp only
  refine Eq.trans ?_ (s.noticeView_updBr b (fun u => { u with wakeLatch := false }) rfl)
  generalize (s.updBr b fun u => { u with wakeLatch := false }) = x
  cases (x.br b).state with
  | draining => exact x.noticeView_updBr b _ rfl
  | dormant | failed => exact x.noticeView_enterWaking b
  | active | down | waking => rfl

/-- The causes that are left rejoin at the tail, behind the other notices (R159). -/
theorem State.ackSelf_keepsNotices (s : State) (cs : CauseSet) : s.KeepsNotices (s.ackSelf cs) := by
  intro gone law
  unfold State.ackSelf
  dsimp only
  split
  · exact s.removeNotices_keepsNotices _ gone law
  · rename_i left
    split
    · exact law
    · have others : ∀ src ∈ (s.notices.filter fun n => n.source != .self).map Notice.source,
          src ∈ s.notices.map Notice.source ∧ src ≠ .self := fun src hsrc => by
        obtain ⟨n, hn, rfl⟩ := List.mem_map.1 hsrc
        obtain ⟨hn, hne⟩ := List.mem_filter.1 hn
        exact ⟨List.mem_map_of_mem hn, by simpa using hne⟩
      have stood : s.hasNotice .self = true := by
        by_contra hs
        exact left (by rw [s.selfCauses_of_none (by simpa using hs)]; exact BitVec.zero_and)
      refine law.afterRemoval ?_ (List.forall_mem_append.2 ⟨fun n hn => law.sound n (List.mem_filter.1 hn).1, fun n hn => ?_⟩)
        ?_ _
      · rw [List.map_append, List.nodup_append]
        refine ⟨law.sources.sublist (List.filter_sublist.map _), by simp, fun x hx y hy e => (others x hx).2 ?_⟩
        exact e.trans (List.mem_singleton.1 hy)
      · obtain rfl := List.mem_singleton.1 hn
        exact ⟨Nat.zero_le _, Nat.zero_le _, fun e => left (NoticeBody.self.inj e)⟩
      · rw [List.map_append]
        refine List.forall_mem_append.2 ⟨fun src hsrc => ⟨(others src hsrc).1, id⟩, fun src hsrc => ?_⟩
        obtain rfl := List.mem_singleton.1 hsrc
        exact ⟨(s.hasNotice_iff _).1 stood, id⟩

theorem State.ackNotice_keepsNotices (s : State) (src : Source) (cs : CauseSet) : s.KeepsNotices (s.ackNotice src cs) := by
  cases src with
  | self => exact (s.ackSelf_keepsNotices cs).trans (.of_view rfl)
  | attachment b p =>
    have cleared : s.KeepsNotices
        ((s.removeNotices (· == .attachment b p)).updBr b fun u => { u with wakeLatch := false }) :=
      .after (.of_view (State.noticeView_updBr _ b _ rfl)) (s.removeNotices_keepsNotices _)
    exact cleared.trans (.of_view rfl)

theorem State.applyCommand_keepsNotices (s : State) (c : Command) : s.KeepsNotices (s.applyCommand c) := by
  cases c with
  | enumerate b => exact .of_view (s.noticeView_startEnumeration b)
  | release b p => exact s.releaseRecord_keepsNotices b p
  | branchReset b => exact s.resetBranch_keepsNotices b
  | dormant b => exact .of_view ((State.noticeView_judgeDrain _ b).trans (s.noticeView_updBr b _ rfl))
  | wake b => exact .of_view (s.noticeView_wakeBranch b)
  | noticeAck src cs => exact s.ackNotice_keepsNotices src cs
  | clearCounters => exact .of_view s.noticeView_zeroCounters

theorem State.applyRecord_keepsNotices (s : State) (r : MgmtRequest) (x : WordRecord) :
    s.KeepsNotices (s.applyRecord r x) := by
  have named : ∀ c : Option Command, s.KeepsNotices ((c.map fun c => s.applyCommand c).getD s) := fun c => by
    cases c with
    | none => exact .refl s
    | some c => exact s.applyCommand_keepsNotices c
  cases x with
  | unmapped | readOnly | interval => exact .of_view rfl
  | globalCommand => exact named _
  | branchCommand b => exact named _
  | window i j => cases j <;> exact .of_view rfl
  | config b j =>
    cases j with
    | zero => exact .of_view (s.noticeView_updBr b _ rfl)
    | succ => exact .refl s

theorem State.applyRecords_keepsNotices (r : MgmtRequest) (xs : List WordRecord) (s : State) :
    s.KeepsNotices (xs.foldl (State.applyRecord r) s) := by
  induction xs generalizing s with
  | nil => exact .refl s
  | cons x xs ih => exact (s.applyRecord_keepsNotices r x).trans (ih _)

theorem State.noticeView_countWrite (s : State) (c : Option Command) : (s.countWrite c).noticeView = s.noticeView := by
  unfold State.countWrite
  split <;> rfl

theorem State.carryOutWrite_keepsNotices (s : State) (r : MgmtRequest) : s.KeepsNotices (s.carryOutWrite r) := by
  unfold State.carryOutWrite
  split
  · exact .of_view ((State.noticeView_answer _ _ _).trans rfl)
  · exact .after (.of_view ((State.noticeView_answer _ _ _).trans (State.noticeView_countWrite _ _)))
      (State.applyRecords_keepsNotices r _ s)

theorem State.carryOut_keepsNotices (s : State) (r : MgmtRequest) : s.KeepsNotices (s.carryOut r) := by
  unfold State.carryOut
  split
  · exact .of_view ((State.noticeView_placeReply _ _ _ _ _).trans rfl)
  · exact .of_view ((State.noticeView_placeReply _ _ _ _ _).trans rfl)
  · exact s.carryOutWrite_keepsNotices r
  · exact s.carryOutWrite_keepsNotices r

/-! ### The classifier -/

theorem State.noticeView_refuseRequest (s : State) (h : ReqHeader) (why : RefuseReason) :
    (s.refuseRequest h why).noticeView = s.noticeView := by
  cases h with
  | tagged k t => exact (State.noticeView_placeReply _ t _ _ _).trans rfl
  | post => rfl

theorem State.noticeView_enqueueRequest (s : State) (r : Request) (i : WindowIx) (b : Branch) (addr : Nat) (p : Position) :
    (s.enqueueRequest r i b addr p).noticeView = s.noticeView := by
  have pushed : ∀ (x : State) (q : Slot), (x.pushSlot b q).noticeView = x.noticeView :=
    fun x q => x.noticeView_updBr b _ rfl
  rw [State.enqueueRequest_eq]
  dsimp only
  split
  · rw [State.noticeView_enterWaking, pushed]; rfl
  · rw [pushed]; rfl

theorem State.noticeView_settle (s : State) (r : Request) (v : Verdict) : (s.settle r v).noticeView = s.noticeView := by
  have dropped : s.dropIngressHead.noticeView = s.noticeView := rfl
  unfold State.settle
  split
  · exact (State.noticeView_refuseRequest _ _ _).trans dropped
  · split <;> rfl
  · exact (State.noticeView_enqueueRequest _ _ _ _ _ _).trans dropped

theorem State.noticeView_retestHeld (s : State) : s.retestHeld.noticeView = s.noticeView := by
  unfold State.retestHeld
  split
  · exact (State.noticeView_settle _ _ _).trans rfl
  · rfl
  · rfl

/-- The classifier's take raises TAGCLASH where a tag is held (R26). -/
theorem State.takeHead_keepsNotices (s : State) : s.KeepsNotices s.takeHead := by
  have clash : s.KeepsNotices s.discardClash := .after (State.raise_keepsNotices _ _) (.of_view rfl)
  unfold State.takeHead
  split
  · exact .refl s
  · exact .refl s
  · split
    · exact .of_view (s.noticeView_settle _ _)
    · split
      · split
        · exact clash
        · exact .of_view ((State.noticeView_settle _ _ _).trans rfl)
      · exact .refl s

theorem State.executeHead_keepsNotices (s : State) (row : MgmtRow) : s.KeepsNotices (s.executeHead row) := by
  unfold State.executeHead
  split
  · exact .refl s
  · split
    · exact .after (State.carryOut_keepsNotices _ _) (.of_view ((State.noticeView_retestHeld _).trans rfl))
    · exact .refl s

end Sys2Proof.Machine

namespace Sys2Proof.Machine

open Sys2Proof

/-! ### Every command keeps the law of the notice queue -/

theorem execPowerOnReset_keepsNotices {s t : State} {span1 span0 : Bool} (h : execPowerOnReset span1 span0 s = .next t) :
    s.KeepsNotices t := by
  obtain rfl := Host.Outcome.next.inj h
  exact .after (.of_view (State.noticeView_mapBranches (s := s.linkReset.zeroCounters)
    (fun _ u => u.startPort s.linkReset.zeroCounters.now) (fun _ _ => rfl) rfl rfl rfl rfl rfl))
    (s.linkReset_keepsNotices.trans (.of_view (State.noticeView_zeroCounters _)))

theorem execResetAsserted_keepsNotices {s t : State} (h : execResetAsserted s = .next t) : s.KeepsNotices t := by
  obtain rfl := Host.Outcome.next.inj h
  exact .of_view (State.noticeView_mapBranches (fun _ u => { u with port := u.port.goOff, credit := 0, unsent := [] })
    (fun _ _ => rfl) rfl rfl rfl rfl rfl)

/-- The egress queue loses its head, which may be the ATTENTION frame (R177). -/
theorem execEgressFrameSent_keepsNotices {s t : State} (h : execEgressFrameSent s = .next t) : s.KeepsNotices t := by
  obtain rfl := Host.Outcome.next.inj h
  split
  · exact fun gone law => law.of_sources rfl rfl law.sound law.idle
      ((List.tail_sublist s.egress).countP_le.trans law.slot)
  · exact .refl s

/-- The part that becomes ASSIGNED makes the presentation that was owed (R157). -/
theorem State.makeOwed_keepsNotices (s : State) : s.KeepsNotices s.makeOwed := by
  have cleared : s.KeepsNotices { s with presentationOwed := false } := fun gone law =>
    law.of_sources rfl rfl law.sound (fun e => ⟨(law.idle e).1, rfl⟩) law.slot
  unfold State.makeOwed
  dsimp only
  split
  · exact cleared.trans (State.presentationDue_keepsNotices _)
  · exact cleared

theorem execUAssign_keepsNotices {s t : State} {base : Word} (h : execUAssign base s = .next t) : s.KeepsNotices t := by
  obtain rfl := Host.Outcome.next.inj h
  refine s.onU_keepsNotices _ fun x => ?_
  dsimp only
  split
  · exact .after (State.makeOwed_keepsNotices _) (.of_view rfl)
  · exact .of_view rfl

theorem execURelease_keepsNotices {s t : State} {base : Word} (h : execURelease base s = .next t) : s.KeepsNotices t := by
  obtain rfl := Host.Outcome.next.inj h
  refine s.onU_keepsNotices _ fun x => ?_
  dsimp only
  split
  · exact .of_view ((State.noticeView_retestHeld _).trans rfl)
  · exact .of_view rfl

theorem execUnknownFrameDiscarded_keepsNotices {s t : State} {p : Port} (h : execUnknownFrameDiscarded p s = .next t) :
    s.KeepsNotices t := by
  cases p with
  | u =>
    obtain rfl := Host.Outcome.next.inj h
    exact s.onU_keepsNotices _ fun x => .of_view rfl
  | branch b =>
    obtain rfl := Host.Outcome.next.inj h
    exact s.onBranch_keepsNotices b _ (.of_view (State.noticeView_discardOn _ b))

theorem execTrainingAttemptTimeout_keepsNotices {s t : State} {p : Port} (h : execTrainingAttemptTimeout p s = .next t) :
    s.KeepsNotices t := by
  obtain rfl := Host.Outcome.next.inj h
  split
  · exact s.runOut_keepsNotices _ _ (.of_view (State.noticeView_updPort _ p _))
  all_goals exact .refl s

theorem execLinkEntersUp_keepsNotices {s t : State} {p : Port} (h : execLinkEntersUp p s = .next t) :
    s.KeepsNotices t := by
  obtain rfl := Host.Outcome.next.inj h
  split
  · cases p with
    | u => exact .of_view rfl
    | branch b => exact .of_view (s.noticeView_branchEntersUp b)
  · exact .refl s

theorem execWakeTaken_keepsNotices {s t : State} {p : Port} (h : execWakeTaken p s = .next t) : s.KeepsNotices t := by
  obtain rfl := Host.Outcome.next.inj h
  split
  · cases p with
    | u => exact .of_view rfl
    | branch b => exact s.wakeByNeighbour_keepsNotices b
  · exact .refl s

theorem execQuietRelistenTimeout_keepsNotices {s t : State} {b : Branch} {still : Bool}
    (h : execQuietRelistenTimeout b still s = .next t) : s.KeepsNotices t := by
  obtain rfl := Host.Outcome.next.inj h
  split
  · rename_i d _ _
    have listens : (s.advanceTo d).KeepsNotices
        ((s.advanceTo d).updBr b fun u => { u with port := { u.port with relistenTimer := none } }) :=
      .of_view (State.noticeView_updBr _ b _ rfl)
    refine s.runOut_keepsNotices _ _ ?_
    dsimp only
    split
    · exact listens.trans (State.wakeByNeighbour_keepsNotices _ b)
    · exact listens
  all_goals exact .refl s

theorem execCredit_keepsNotices {s t : State} {b : Branch} {n : Byte} (h : execCredit b n s = .next t) :
    s.KeepsNotices t := by
  obtain rfl := Host.Outcome.next.inj h
  split
  · exact .of_view ((State.noticeView_receiveCredit _ b n).trans (s.noticeView_goodFrameOn b))
  · exact .refl s

theorem execAgeDeadlineExpiry_keepsNotices {s t : State} {b : Branch} (h : execAgeDeadlineExpiry b s = .next t) :
    s.KeepsNotices t := by
  obtain rfl := Host.Outcome.next.inj h
  split
  · exact .refl s
  · exact s.runOut_keepsNotices _ _ (.of_view (State.noticeView_ageSlots _ b))

theorem execReplyDeadlineExpiry_keepsNotices {s t : State} {e : EntryIx} (h : execReplyDeadlineExpiry e s = .next t) :
    s.KeepsNotices t := by
  obtain rfl := Host.Outcome.next.inj h
  split
  · exact s.runOut_keepsNotices _ _ (.of_view (State.noticeView_replyTimedOut _ e _ _))
  all_goals exact .refl s

theorem execOrphanDeadlineExpiry_keepsNotices {s t : State} {e : EntryIx} (h : execOrphanDeadlineExpiry e s = .next t) :
    s.KeepsNotices t := by
  obtain rfl := Host.Outcome.next.inj h
  split
  · exact s.runOut_keepsNotices _ _ (.of_view rfl)
  all_goals exact .refl s

theorem execWakeTimerExpiry_keepsNotices {s t : State} {b : Branch} (h : execWakeTimerExpiry b s = .next t) :
    s.KeepsNotices t := by
  obtain rfl := Host.Outcome.next.inj h
  split
  · exact s.runOut_keepsNotices _ _ (State.wakeFails_keepsNotices _ b)
  all_goals exact .refl s

/-- The re-present timer is stopped, and the presentation that falls due starts it again (R155). -/
theorem execRePresentTimerExpiry_keepsNotices {s t : State} (h : execRePresentTimerExpiry s = .next t) :
    s.KeepsNotices t := by
  have stopped : ∀ x : State, x.KeepsNotices { x with rePresentTimer := none } := fun x gone law =>
    law.of_sources rfl rfl law.sound (fun e => ⟨rfl, (law.idle e).2⟩) law.slot
  obtain rfl := Host.Outcome.next.inj h
  split
  · exact s.runOut_keepsNotices _ _ ((stopped _).trans (State.presentationDue_keepsNotices _))
  · exact .refl s

theorem execBranchClearSent_keepsNotices {s t : State} {b : Branch} (h : execBranchClearSent b s = .next t) :
    s.KeepsNotices t := by
  have sent : ∀ rest, s.KeepsNotices (if (s.br b).port.link = .up then
      State.clearSent b (s.updBr b fun u => { u with unsent := rest }) else s) := fun rest => by
    split
    · exact .of_view ((State.noticeView_clearSent _ b).trans (s.noticeView_updBr b _ rfl))
    · exact .refl s
  obtain rfl := Host.Outcome.next.inj h
  split
  · exact sent _
  · exact sent _
  · exact .refl s

theorem execHushSent_keepsNotices {s t : State} {b : Branch} (h : execHushSent b s = .next t) : s.KeepsNotices t := by
  obtain rfl := Host.Outcome.next.inj h
  split
  · split
    · exact .of_view ((State.noticeView_afterHush _ b).trans (s.noticeView_updBr b _ rfl))
    · exact .refl s
  · exact .refl s

theorem execBranchFrameSent_keepsNotices {s t : State} {b : Branch} (h : execBranchFrameSent b s = .next t) :
    s.KeepsNotices t := by
  obtain rfl := Host.Outcome.next.inj h
  have leaves : ∀ rest,
      s.KeepsNotices (if (s.br b).port.link = .up then s.updBr b fun u => { u with unsent := rest } else s) :=
    fun rest => by
      split
      · exact .of_view (s.noticeView_updBr b _ rfl)
      · exact .refl s
  cases (s.br b).unsent with
  | nil => exact .refl s
  | cons f rest =>
    cases f with
    | clear | resetClear | hush => exact .refl s
    | tagged | post | identify | assign | release => exact leaves rest

/-- A happening with one outcome. -/
theorem keepsNotices_of_next {s x t : State} (h : (.next x : Host.Outcome State Fault Refusal) = .next t)
    (k : s.KeepsNotices x) : s.KeepsNotices t :=
  Host.Outcome.next.inj h ▸ k

/-- Every command keeps the law, where no working position is ASSIGNED. -/
theorem exec_keepsNotices {c : Instr} {s t : State} (hw : ∀ b, (s.br b).WorksUnassigned) (h : exec c s = .next t) :
    s.KeepsNotices t := by
  have good : ∀ b, ((s.goodFrameOn b).br b).WorksUnassigned := fun b => by
    rw [State.goodFrameOn, State.br_updBr]
    exact hw b
  cases c with
  | powerOnReset => exact execPowerOnReset_keepsNotices h
  | resetAsserted => exact execResetAsserted_keepsNotices h
  | requestFrame =>
    exact keepsNotices_of_next h
      (s.onFrame_keepsNotices _ _ _ (s.onU_keepsNotices _ fun y => .of_view (y.noticeView_receiveRequest _)))
  | uCreditSent => exact keepsNotices_of_next h (.of_view (by split <;> rfl))
  | classifierTake => exact keepsNotices_of_next h s.takeHead_keepsNotices
  | uIdentify => exact keepsNotices_of_next h (s.onU_keepsNotices _ fun x => .of_view rfl)
  | uAssign => exact execUAssign_keepsNotices h
  | uRelease => exact execURelease_keepsNotices h
  | uClear =>
    exact keepsNotices_of_next h (s.onU_keepsNotices _ fun x => .after (State.linkReset_keepsNotices _) (.of_view rfl))
  | uHush =>
    exact keepsNotices_of_next h (s.onU_keepsNotices _ fun x => .of_view ((State.noticeView_signalWakeU _).trans rfl))
  | uUnexpectedFrame => exact keepsNotices_of_next h (s.onU_keepsNotices _ fun x => .of_view rfl)
  | uCreditReceived => exact keepsNotices_of_next h (s.onU_keepsNotices _ fun x => .of_view rfl)
  | egressFrameSent => exact execEgressFrameSent_keepsNotices h
  | uMemberFrameSent => exact keepsNotices_of_next h (.of_view (by split <;> rfl))
  | badFrame p => exact keepsNotices_of_next h (s.receiveBad_keepsNotices p)
  | farEndTrains p => exact keepsNotices_of_next h (s.departure_keepsNotices p)
  | lossOfSignal p => exact keepsNotices_of_next h (s.departure_keepsNotices p)
  | unknownFrameDiscarded => exact execUnknownFrameDiscarded_keepsNotices h
  | branchAwayFrame b =>
    exact keepsNotices_of_next h (s.onBranch_keepsNotices b _ (.of_view (State.noticeView_discardOn _ b)))
  | trainingAttemptTimeout => exact execTrainingAttemptTimeout_keepsNotices h
  | linkEntersUp => exact execLinkEntersUp_keepsNotices h
  | wakeTaken => exact execWakeTaken_keepsNotices h
  | quietRelistenTimeout => exact execQuietRelistenTimeout_keepsNotices h
  | credit => exact execCredit_keepsNotices h
  | issue b => exact keepsNotices_of_next h (.of_view (s.noticeView_issueHead b))
  | ageDeadlineExpiry => exact execAgeDeadlineExpiry_keepsNotices h
  | reply b =>
    exact keepsNotices_of_next h (s.onFrame_keepsNotices _ _ _
      (s.onBranch_keepsNotices b _ (.of_view (State.noticeView_takeReply _ b _ _ _ _))))
  | replyDeadlineExpiry => exact execReplyDeadlineExpiry_keepsNotices h
  | orphanDeadlineExpiry => exact execOrphanDeadlineExpiry_keepsNotices h
  | descriptor b =>
    exact keepsNotices_of_next h (s.onBranch_keepsNotices b _ (State.takeDescriptor_keepsNotices _ b _ _))
  | assigned b =>
    exact keepsNotices_of_next h (s.onBranch_keepsNotices b _ (State.takeAssigned_keepsNotices (good b) _))
  | empty b => exact keepsNotices_of_next h (s.onBranch_keepsNotices b _ (State.takeEmpty_keepsNotices _ b))
  | identifyTimerExpiry b => exact keepsNotices_of_next h (State.identifyTimeout_keepsNotices (hw b))
  | chainbreak b => exact keepsNotices_of_next h (s.onBranch_keepsNotices b _ (State.takeBreak_keepsNotices _ b _))
  | chainmend b => exact keepsNotices_of_next h (s.onBranch_keepsNotices b _ (State.takeMend_keepsNotices _ b))
  | attention b =>
    exact keepsNotices_of_next h (s.onBranch_keepsNotices b _ (State.takeAttention_keepsNotices _ b _ _))
  | branchClearSent => exact execBranchClearSent_keepsNotices h
  | hushSent => exact execHushSent_keepsNotices h
  | branchFrameSent => exact execBranchFrameSent_keepsNotices h
  | drainComplete b => exact keepsNotices_of_next h (.of_view (s.noticeView_judgeDrain b))
  | wakeTimerExpiry => exact execWakeTimerExpiry_keepsNotices h
  | rePresentTimerExpiry => exact execRePresentTimerExpiry_keepsNotices h
  | managementRead | managementWrite | windowEntryWrite | configurationWrite | rePresentIntervalWrite | managementSwap
  | enumerate | release | branchReset | dormant | wake | noticeAck | clearCounters =>
    exact keepsNotices_of_next h (s.executeHead_keepsNotices _)

/-- Every step keeps the law, where no working position is ASSIGNED. -/
theorem step_keepsNotices {s t : State} (hw : ∀ b, (s.br b).WorksUnassigned) (h : step s = .next t) : s.KeepsNotices t := by
  unfold step at h
  split at h
  · unfold State.idle at h
    split at h
    · exact exec_keepsNotices hw h
    · exact keepsNotices_of_next h (.of_view rfl)
  · rename_i c rest _
    have popped : s.KeepsNotices { s with pending := rest } := .of_view rfl
    exact popped.trans (exec_keepsNotices hw h)

/-- Settles O59: on lawful branches the record at a working position is IDENTIFIED, and every happening that takes an ASSIGNED
record away removes its notice. -/
theorem stepKeepsNoticeLaw : Obligations.StepKeepsNoticeLaw := by
  intro s t hl hn h
  rw [State.noticeLaw_iff] at hn ⊢
  exact step_keepsNotices (fun b => (hl b).worksUnassigned) h _ hn

end Sys2Proof.Machine

namespace Sys2Proof.Machine

open Sys2Proof

/-! ### ATTENTION (R150, R151) -/

theorem hopPosition_none {hop : Byte} (h : 7 < hop.toNat) : hopPosition hop = none :=
  dif_neg (by omega)

theorem hopPosition_some {hop : Byte} {p : Position} (h : hop.toNat = p.val) : hopPosition hop = some p :=
  (dif_pos (h ▸ p.isLt)).trans (congrArg some (Fin.ext h))

/-- From beyond the eighth position, or from one that is not ASSIGNED, an ATTENTION is discarded. -/
theorem State.takeAttention_discarded {s : State} {b : Branch} {hop : Byte} (code : Byte)
    (h : 7 < hop.toNat ∨ ∃ p : Position, hop.toNat = p.val ∧ (s.record b p).isAssigned = false) :
    s.takeAttention b code hop = s.discardAttention := by
  unfold State.takeAttention
  rcases h with beyond | ⟨p, hp, ha⟩
  · rw [hopPosition_none beyond]
  · rw [hopPosition_some hp]
    exact if_neg (by simp [ha])

/-- From an ASSIGNED position it merges into the notice of the position, or makes it. -/
theorem State.takeAttention_taken {s : State} {b : Branch} {hop : Byte} {p : Position} (code : Byte)
    (hp : hop.toNat = p.val) (ha : (s.record b p).isAssigned = true) : s.takeAttention b code hop =
      if s.hasNotice (.attachment b p) then s.mergeNotice (.attachment b p) 0 else s.joinNotice (.attachment b p code) := by
  unfold State.takeAttention
  rw [hopPosition_some hp]
  exact if_pos ha

/-- An attachment notice takes no cause. -/
theorem Notice.addCauses_of_attachment {n : Notice} {b : Branch} {p : Position} (h : n.source = .attachment b p)
    (c : CauseSet) : n.addCauses c = n := by
  rcases n with ⟨body, m, q⟩
  cases body with
  | self => exact nomatch h
  | attachment => rfl

/-- Settles O40: the position that the hop count names and its record decide between discard, merge and join. -/
theorem attentionJoinsMergesOrIsDiscarded : Obligations.AttentionJoinsMergesOrIsDiscarded := by
  rintro b code hop s htakes g rfl
  have taken : exec (.attention b code hop) s = .next ((s.goodFrameOn b).takeAttention b code hop) :=
    congrArg Host.Outcome.next (if_pos htakes)
  have record : ∀ p, (s.goodFrameOn b).record b p = s.record b p := fun p => by
    simp [State.record, State.goodFrameOn]
  rw [taken]
  refine ⟨fun h => ?_, fun p hp ha => ?_⟩
  · rw [State.takeAttention_discarded code (by simpa only [record] using h)]
    rfl
  · rw [State.takeAttention_taken code hp (by rw [record]; exact ha)]
    refine ⟨fun hs => ?_, fun hs j hj => ?_⟩
    · refine congrArg Host.Outcome.next ((if_pos hs).trans ?_)
      have merged : (fun n : Notice => if n.source = .attachment b p then (n.addCauses 0).merge else n) =
          fun n => if n.source = .attachment b p then { n with merges := min 15 (n.merges + 1) } else n :=
        funext fun n => by
          split
          · rename_i hn; rw [Notice.addCauses_of_attachment hn]; rfl
          · rfl
      rw [State.mergeNotice, merged]
      rfl
    · subst hj
      exact congrArg Host.Outcome.next (if_neg (by rw [Bool.not_eq_true]; exact hs))

/-! ### Raising a self cause (R153, R212) -/

/-- Settles O41: a cause raised is added to the self notice where it stands, and makes it where it does not. -/
theorem raisingASelfCause : Obligations.RaisingASelfCause := by
  refine ⟨fun b => ⟨rfl, rfl, rfl, rfl, rfl⟩, fun c s => ⟨fun hs j hj => ?_, fun hs => ?_, s.raise_selfCauses c⟩⟩
  · refine State.raise_of_none c s hs j (hj.trans ?_)
    rw [withCause, if_neg (by rw [Bool.not_eq_true]; exact hs)]
  · have merged : withCause c s.notices = _ := if_pos hs
    have raised := State.raise_of_self c s hs
    rw [merged] at raised
    exact raised

/-! ### The re-present timer (R154 to R157) -/

/-- Settles O42: the presentation that falls due is deferred, skipped or made. -/
theorem presentationIsMadeSkippedOrDeferred : Obligations.PresentationIsMadeSkippedOrDeferred := by
  intro s h rest d hn ht
  have due : exec .rePresentTimerExpiry s =
      .next (s.runOut d fun t => State.presentationDue { t with rePresentTimer := none }) := by
    show execRePresentTimerExpiry s = _
    rw [execRePresentTimerExpiry, ht]
  obtain ⟨waits, runs⟩ := State.next_runOut s d fun t => State.presentationDue { t with rePresentTimer := none }
  rw [due]
  refine ⟨waits, fun hr a ha => ?_⟩
  rw [runs hr]
  subst ha
  refine ⟨fun hm => ?_, fun hm full => ?_, fun hm free => ?_⟩
  · exact congrArg Host.Outcome.next
      (State.presentationDue_deferred { s.advanceTo d with rePresentTimer := none } h rest hn hm)
  · exact congrArg Host.Outcome.next (State.presentationDue_skipped { s.advanceTo d with rePresentTimer := none } h rest hn hm
      ((State.noticeSlotFull_iff s).2 full))
  · have empty : s.noticeSlotFull = false := by
      rw [← Bool.not_eq_true, State.noticeSlotFull_iff]
      exact fun ⟨code, hc⟩ => free code hc
    refine congrArg Host.Outcome.next
      ((State.presentationDue_made { s.advanceTo d with rePresentTimer := none } h rest hn hm empty).trans ?_)
    cases h.source <;> rfl

end Sys2Proof.Machine

namespace Sys2Proof.Machine

open Sys2Proof

/-! ### The NOTICE_ACK command (R158, R159, R208) -/

/-- Every source is that of its number (R147). -/
theorem Source.ofNumber_number (src : Source) : Source.ofNumber src.number = some src := by
  cases src with
  | self => rfl
  | attachment b p =>
    have hb := b.isLt
    have hp := p.isLt
    have branch : Fin.ofNat 4 ((1 + 8 * b.val + p.val - 1) / 8) = b := finOfNat_eq (by omega)
    have position : Fin.ofNat 8 ((1 + 8 * b.val + p.val - 1) % 8) = p := finOfNat_eq (by omega)
    rw [Source.number, Source.ofNumber, if_neg (by omega), if_pos (by omega), branch, position]

/-- A command word of code 1 names NOTICE-ACK, with its source and its causes (R208, R212). -/
theorem globalCommand_ack {w : Word} (h : w.toNat % 16 = 1) : globalCommand w =
    (Source.ofNumber (w.toNat / 16 % 64)).map fun src => .noticeAck src (BitVec.ofNat 17 (w.toNat / 1024)) := by
  have causes : BitVec.ofNat 17 (bitsOf w 26 10) = BitVec.ofNat 17 (w.toNat / 1024) :=
    BitVec.eq_of_toNat_eq (by simp [bitsOf])
  rw [globalCommand, bitsOf_code, h, ← causes]
  rfl

/-- Such a write executes under the row of NOTICE_ACK. -/
theorem exec_noticeAck {s : State} {h : ReqHeader} {w : Word} (hn : s.nextWrite h 0x018 [w]) (hw : w.toNat % 16 = 1) :
    exec .noticeAck s = .next (s.afterHeadLeaves.carryOutWrite ⟨h, 0x018, 1, [w]⟩) := by
  obtain ⟨hwrite, hhead⟩ := hn
  have row : MgmtRequest.row ⟨h, 0x018, [w].length, [w]⟩ = .noticeAck := by
    have code : bitsOf (MgmtRequest.wordAt ⟨h, 0x018, 1, [w]⟩ globalCommandOffset) 3 0 = 1 := by
      rw [globalCommandOffset, one_wordAt, bitsOf_code, hw]
    rw [MgmtRequest.row_write _ hwrite, MgmtRequest.writeRow, List.length_singleton,
      one_records _ _ _ _ wordRecord_globalCommand]
    simp [MgmtRequest.commandRow?, code]
  have executed := exec_write hhead hwrite
  rwa [row] at executed

/-- The command that such a write names. -/
theorem ackWrite_command (h : ReqHeader) (w : Word) :
    MgmtRequest.command? ⟨h, 0x018, 1, [w]⟩ .globalCommand = globalCommand w :=
  congrArg globalCommand (one_wordAt h 0x018 w)

/-- A NOTICE-ACK that is not accepted is REFUSED; one that is takes effect and is done (R158, R206, R208). -/
theorem exec_noticeAck_of_source {s : State} {h : ReqHeader} {w : Word} (hn : s.nextWrite h 0x018 [w])
    (hw : w.toNat % 16 = 1) (src : Source) (hsrc : w.toNat / 16 % 64 = src.number) :
    exec .noticeAck s = .next
      (if s.afterHeadLeaves.ackAccepted src (BitVec.ofNat 17 (w.toNat / 1024)) then
        State.commandDone h (s.afterHeadLeaves.ackNotice src (BitVec.ofNat 17 (w.toNat / 1024)))
      else s.afterHeadLeaves.writeRefused h .refused) := by
  have names := (ackWrite_command h w).trans (globalCommand_ack hw)
  rw [hsrc, Source.ofNumber_number, Option.map_some] at names
  rw [exec_noticeAck hn hw]
  refine congrArg Host.Outcome.next ?_
  split
  · rename_i ha
    exact State.carryOutWrite_command _ h 0x018 w _ _ wordRecord_globalCommand rfl names ha
  · rename_i ha
    exact State.carryOutWrite_turnedAway _ h 0x018 w _ _ wordRecord_globalCommand rfl names (Bool.eq_false_iff.2 ha)

/-- A source with a notice is not that of an empty queue. -/
theorem State.notices_ne_nil {s : State} {src : Source} (h : s.hasNotice src = true) : s.notices ≠ [] :=
  fun e => by simp [State.hasNotice, e] at h

/-- Removing the notice of a source that has one (R161). -/
theorem State.removeNotices_of_hasNotice {s : State} {src : Source} (h : s.hasNotice src = true) :
    s.removeNotices (· == src) = s.afterRemoval (s.notices.filter fun x => decide (x.source ≠ src))
      (s.notices.head?.any fun x => decide (x.source = src)) := by
  have others : (fun n : Notice => !(n.source == src)) = fun x => decide (x.source ≠ src) :=
    funext fun n => by rw [beq_eq_decide, decide_not]
  obtain ⟨n, rest, hn⟩ := List.exists_cons_of_ne_nil (State.notices_ne_nil h)
  rw [State.removeNotices, hn, others]
  rfl

/-- The self notice goes where every cause is named, and else rejoins with the causes that are left (R159). -/
theorem State.ackSelf_of_hasNotice {s : State} (h : s.hasNotice .self = true) (causes : CauseSet) :
    s.ackSelf causes = s.afterRemoval
      ((s.notices.filter fun x => decide (x.source ≠ .self)) ++
        (if s.selfCauses &&& ~~~causes = 0 then []
          else [{ body := .self (s.selfCauses &&& ~~~causes), merges := 0, presentations := 0 }]))
      (s.notices.head?.any fun x => decide (x.source = .self)) := by
  unfold State.ackSelf
  dsimp only
  split
  · rw [List.append_nil]
    exact State.removeNotices_of_hasNotice h
  · have others : (fun n : Notice => n.source != .self) = fun x => decide (x.source ≠ .self) :=
      funext fun n => by rw [bne, beq_eq_decide, decide_not]
    obtain ⟨n, rest, hn⟩ := List.exists_cons_of_ne_nil (State.notices_ne_nil h)
    rw [hn, others]
    rfl

/-- Settles O52: the word names the command, or none; the notice unit accepts it or not, and removes the notice or lets it rejoin. -/
theorem noticeAckRemovesOrRejoins : Obligations.NoticeAckRemovesOrRejoins := by
  rintro s h w hn hw v rfl n rfl causes rfl done rfl put hput
  have removal : put = fun left headGone => s.afterHeadLeaves.afterRemoval left headGone := hput
  subst removal
  refine ⟨fun beyond => ?_, fun b p hnum src hsrc => ?_, fun hnum => ?_⟩
  · have unnamed : globalCommand w = none := (globalCommand_none w).2 ⟨1, hw.symm, .inr (.inr ⟨rfl, beyond⟩)⟩
    rw [exec_noticeAck hn hw]
    exact congrArg Host.Outcome.next (State.carryOutWrite_unknown _ h 0x018 w _ wordRecord_globalCommand rfl
      ((ackWrite_command h w).trans unnamed))
  · subst hsrc
    rw [exec_noticeAck_of_source hn hw (.attachment b p) hnum]
    refine ⟨fun hs => congrArg Host.Outcome.next (if_neg (by rw [State.ackAccepted, hs]; exact Bool.false_ne_true)),
      fun hs a ha => congrArg Host.Outcome.next ((if_pos hs).trans ?_)⟩
    subst ha
    simp only [State.ackNotice, State.removeNotices_of_hasNotice hs]
    rfl
  · rw [exec_noticeAck_of_source hn hw .self hnum]
    refine ⟨fun hs => congrArg Host.Outcome.next (if_neg ?_), fun hs hc => congrArg Host.Outcome.next ((if_pos ?_).trans ?_)⟩
    · rw [State.ackAccepted]
      rcases hs with absent | disjoint
      · simp [absent]
      · simp [disjoint]
    · rw [State.ackAccepted, hs]
      simpa using hc
    · simp only [State.ackNotice, State.ackSelf_of_hasNotice hs]

end Sys2Proof.Machine

namespace Sys2Proof.Machine

open Sys2Proof

/-! ### What stands through every operation: the commands that wait, the identity number, S and the clock

Only POWER_ON_RESET changes S (R200), nothing changes the identity number (R166), and only a timer that runs out moves the
clock (assumption 1). An operation that is a plain update of other parts keeps these four by definition. -/

/-- The commands that wait, the identity number, S and the clock. -/
def State.standing (s : State) :=
  (s.pending, s.identity, s.spanExp, s.now)

/-! ### Plain updates that longer happenings are made of -/

@[simp] theorem State.updBr_standing (s : State) (b : Branch) (f : BranchUnit → BranchUnit) :
    (s.updBr b f).standing = s.standing :=
  rfl

@[simp] theorem State.emptyQueue_standing (s : State) (b : Branch) : (s.emptyQueue b).standing = s.standing :=
  rfl

@[simp] theorem State.freeEntries_standing (s : State) (b : Branch) : (s.freeEntries b).standing = s.standing :=
  rfl

@[simp] theorem State.orphanWaiting_standing (s : State) (b : Branch) (sel : Carried → Bool) (st : Status) :
    (s.orphanWaiting b sel st).standing = s.standing :=
  rfl

@[simp] theorem State.loseRecords_standing (s : State) (b : Branch) (sel : Position → Bool) :
    (s.loseRecords b sel).standing = s.standing :=
  rfl

@[simp] theorem State.vacateRecords_standing (s : State) (b : Branch) : (s.vacateRecords b).standing = s.standing :=
  rfl

@[simp] theorem State.hand_standing (s : State) (b : Branch) (f : BranchFrame) : (s.hand b f).standing = s.standing :=
  rfl

/-! ### The egress queue and the notice unit -/

@[simp] theorem State.signalWakeU_standing (s : State) : s.signalWakeU.standing = s.standing := by
  simp [State.standing]

@[simp] theorem State.placeReply_standing (s : State) (t : UTag) (st : Status) (d : Byte) (ws : List Word) :
    (s.placeReply t st d ws).standing = s.standing := by
  simp [State.standing]

@[simp] theorem State.answer_standing (s : State) (h : ReqHeader) (st : Status) :
    (s.answer h st).standing = s.standing := by
  simp [State.standing]

@[simp] theorem State.answerAll_standing (s : State) (hs : List ReqHeader) (st : Status) :
    (s.answerAll hs st).standing = s.standing := by
  simp [State.standing]

@[simp] theorem State.presentationDue_standing (s : State) : s.presentationDue.standing = s.standing := by
  simp [State.standing]

@[simp] theorem State.joinNotice_standing (s : State) (n : NoticeBody) : (s.joinNotice n).standing = s.standing := by
  simp [State.standing]

@[simp] theorem State.raise_standing (s : State) (c : Cause) : (s.raise c).standing = s.standing := by
  simp [State.standing]

@[simp] theorem State.afterRemoval_standing (s : State) (kept : List Notice) (g : Bool) :
    (s.afterRemoval kept g).standing = s.standing := by
  simp [State.standing]

@[simp] theorem State.removeNotices_standing (s : State) (gone : Source → Bool) :
    (s.removeNotices gone).standing = s.standing := by
  simp [State.standing]

@[simp] theorem State.endEnumeration_standing (s : State) (b : Branch) (o : EnumOutcome) :
    (s.endEnumeration b o).standing = s.standing :=
  State.raise_standing _ _

/-- The answers and the notice doings of a branch event, in either order. -/
@[simp] theorem State.branchEvent_standing (s : State) (hs : List ReqHeader) (st : Status) (b : Branch)
    (gone : Position → Bool) (ended : Bool) (cause : Option Cause) :
    (s.inOpenOrder (State.answerAll hs st) (noticeDoings b gone ended cause)).standing = s.standing := by
  rw [State.inOpenOrder_frame s hs st _ (noticeDoings_frame b gone ended cause) _ rfl]
  rfl

/-! ### The events of a branch -/

@[simp] theorem State.judgeDrain_standing (s : State) (b : Branch) : (s.judgeDrain b).standing = s.standing := by
  simp [State.standing]

@[simp] theorem State.enterWaking_standing (s : State) (b : Branch) : (s.enterWaking b).standing = s.standing := by
  rw [State.enterWaking_eq]
  rfl

@[simp] theorem State.branchLinkLoss_standing (s : State) (b : Branch) : (s.branchLinkLoss b).standing = s.standing := by
  simp [State.branchLinkLoss_event, State.abortEnumeration_eq]

@[simp] theorem State.wakeFails_standing (s : State) (b : Branch) : (s.wakeFails b).standing = s.standing := by
  simp [State.wakeFails_event]

@[simp] theorem State.takeBreak_standing (s : State) (b : Branch) (k : Nat) : (s.takeBreak b k).standing = s.standing := by
  simp [State.takeBreak_event]

@[simp] theorem State.resetBranchState_standing (s : State) (b : Branch) :
    (s.resetBranchState b).standing = s.standing := by
  unfold State.resetBranchState
  dsimp only
  cases (s.br b).state with
  | active | draining => dsimp only; split <;> rfl
  | dormant | failed => exact s.enterWaking_standing b
  | waking | down => rfl

@[simp] theorem State.resetBranch_standing (s : State) (b : Branch) : (s.resetBranch b).standing = s.standing := by
  simp [State.resetBranch_event, State.abortEnumeration_eq]

@[simp] theorem State.branchLeavesUp_standing (s : State) (b : Branch) : (s.branchLeavesUp b).standing = s.standing := by
  unfold State.branchLeavesUp
  dsimp only
  split
  · exact State.branchLinkLoss_standing _ b
  · rfl

end Sys2Proof.Machine

namespace Sys2Proof.Machine

open Sys2Proof

/-! ### What stands: links, forwarder, tracker and chain controller -/

@[simp] theorem State.updPort_standing (s : State) (p : Port) (f : LinkPort → LinkPort) :
    (s.updPort p f).standing = s.standing := by
  cases p <;> rfl

@[simp] theorem State.leaveUp_standing (s : State) (p : Port) : (s.leaveUp p).standing = s.standing := by
  cases p with
  | u => rfl
  | branch b => exact s.branchLeavesUp_standing b

@[simp] theorem State.departure_standing (s : State) (p : Port) : (s.departure p).standing = s.standing := by
  unfold State.departure
  split
  · exact s.leaveUp_standing p
  · rfl

@[simp] theorem State.receiveBad_standing (s : State) (p : Port) : (s.receiveBad p).standing = s.standing := by
  have counted := s.updPort_standing p LinkPort.countBad
  unfold State.receiveBad
  dsimp only
  split
  · split
    · exact counted
    · have risen := (State.updPort_standing _ p fun q => { q with badRun := (s.portOf p).badRun + 1 }).trans counted
      split
      · exact (State.leaveUp_standing _ p).trans risen
      · exact risen
  · split
    · exact counted
    · rfl
  · exact counted
  · rfl

@[simp] theorem State.branchEntersUp_standing (s : State) (b : Branch) : (s.branchEntersUp b).standing = s.standing := by
  unfold State.branchEntersUp
  dsimp only
  split <;> rfl

@[simp] theorem State.wakeByNeighbour_standing (s : State) (b : Branch) : (s.wakeByNeighbour b).standing = s.standing := by
  unfold State.wakeByNeighbour
  split
  · exact State.raise_standing _ _
  · exact State.enterWaking_standing _ b

@[simp] theorem State.receiveCredit_standing (s : State) (b : Branch) (n : Byte) :
    (s.receiveCredit b n).standing = s.standing := by
  unfold State.receiveCredit
  dsimp only
  split <;> rfl

@[simp] theorem State.afterHush_standing (s : State) (b : Branch) : (s.afterHush b).standing = s.standing := by
  unfold State.afterHush
  cases (s.br b).state <;> rfl

@[simp] theorem State.receiveRequest_standing (s : State) (r : Request) : (s.receiveRequest r).standing = s.standing := by
  unfold State.receiveRequest
  split <;> rfl

@[simp] theorem State.onU_standing (s : State) {take : State → State} (h : ∀ x : State, (take x).standing = x.standing) :
    (s.onU take).standing = s.standing := by
  unfold State.onU
  split
  · exact h _
  · rfl

@[simp] theorem State.onBranch_standing (s : State) (b : Branch) {take : State → State}
    (h : ∀ x : State, (take x).standing = x.standing) : (s.onBranch b take).standing = s.standing := by
  unfold State.onBranch
  split
  · exact h _
  · rfl

@[simp] theorem State.onFrame_standing (s : State) (p : Port) (data : List Word) {take : State → State}
    (h : ∀ x : State, (take x).standing = x.standing) : (s.onFrame p data take).standing = s.standing := by
  unfold State.onFrame
  split
  · exact s.receiveBad_standing p
  · exact h s

/-! ### Forwarder and tracker -/

@[simp] theorem State.failRecheck_standing (s : State) (b : Branch) (q : Slot) :
    (s.failRecheck b q).standing = s.standing :=
  (State.judgeDrain_standing _ b).trans (State.answer_standing _ _ _)

@[simp] theorem State.issueHead_standing (s : State) (b : Branch) : (s.issueHead b).standing = s.standing := by
  cases hq : (s.br b).queue with
  | nil => rw [State.issueHead, hq]
  | cons q rest =>
    cases hm : (s.br b).mayIssue with
    | false => rw [State.issueHead_of_not_mayIssue hm]
    | true =>
      cases hh : q.hdr with
      | post =>
        rw [State.issueHead_post hq hm hh]
        split
        · exact State.judgeDrain_standing _ b
        · exact s.failRecheck_standing b q
      | tagged k ut =>
        cases hr : s.issueRoom b with
        | none => rw [State.issueHead_tagged_none hq hm hh hr]
        | some te =>
          rw [State.issueHead_tagged_some hq hm hh hr]
          split
          · rfl
          · exact s.failRecheck_standing b q

@[simp] theorem State.ageSlots_standing (s : State) (b : Branch) : (s.ageSlots b).standing = s.standing := by
  simp [State.ageSlots]

@[simp] theorem State.passUpward_standing (s : State) (c : Carried) (ut : UTag) (status detail : Byte) (data : List Word) :
    (s.passUpward c ut status detail data).standing = s.standing := by
  unfold State.passUpward
  split
  · exact s.placeReply_standing _ _ _ _
  · exact State.placeReply_standing _ _ _ _ _

@[simp] theorem State.setEntry_standing (s : State) (e : EntryIx) (x : PendingEntry) :
    (s.setEntry e x).standing = s.standing :=
  rfl

@[simp] theorem State.takeReply_standing (s : State) (b : Branch) (tag : UTag) (status detail : Byte) (data : List Word) :
    (s.takeReply b tag status detail data).standing = s.standing := by
  unfold State.takeReply
  split
  · rfl
  · split
    · rfl
    · simp
    · rfl

@[simp] theorem State.replyTimedOut_standing (s : State) (e : EntryIx) (c : Carried) (ut : UTag) :
    (s.replyTimedOut e c ut).standing = s.standing :=
  (State.judgeDrain_standing _ _).trans (State.placeReply_standing _ _ _ _ _)

/-! ### Chain controller -/

@[simp] theorem State.placeMember_standing (s : State) (b : Branch) (p : Position) (m : Member) :
    (s.placeMember b p m).standing = s.standing := by
  unfold State.placeMember
  split
  · rfl
  · exact State.endEnumeration_standing _ b _

@[simp] theorem State.takeDescriptorAt_standing (s : State) (b : Branch) (p : Position) (m : Member) :
    (s.takeDescriptorAt b p m).standing = s.standing := by
  unfold State.takeDescriptorAt
  cases s.record b p with
  | assigned => exact s.endEnumeration_standing b _
  | vacant | identified | unplaced => exact s.placeMember_standing b p m
  | lost old range =>
    dsimp only
    split
    · rfl
    · exact s.placeMember_standing b p m

@[simp] theorem State.takeDescriptor_standing (s : State) (b : Branch) (m : Member) (hop : Byte) :
    (s.takeDescriptor b m hop).standing = s.standing := by
  unfold State.takeDescriptor
  split
  · split
    · exact s.endEnumeration_standing b _
    · exact s.takeDescriptorAt_standing b _ m
  · rfl
  · rfl

@[simp] theorem State.takeAssigned_standing (s : State) (b : Branch) (hop : Byte) :
    (s.takeAssigned b hop).standing = s.standing := by
  unfold State.takeAssigned
  split
  · split
    · rfl
    · exact State.endEnumeration_standing _ b _
  · rfl
  · rfl

@[simp] theorem State.takeEmpty_standing (s : State) (b : Branch) : (s.takeEmpty b).standing = s.standing := by
  unfold State.takeEmpty
  split
  · exact s.endEnumeration_standing b _
  · rfl
  · rfl

@[simp] theorem State.startEnumeration_standing (s : State) (b : Branch) :
    (s.startEnumeration b).standing = s.standing :=
  rfl

@[simp] theorem State.takeMend_standing (s : State) (b : Branch) : (s.takeMend b).standing = s.standing := by
  unfold State.takeMend
  dsimp only
  split <;> simp

@[simp] theorem State.clearSent_standing (s : State) (b : Branch) : (s.clearSent b).standing = s.standing := by
  unfold State.clearSent
  dsimp only
  split <;> rfl

@[simp] theorem State.takeAttention_standing (s : State) (b : Branch) (code hop : Byte) :
    (s.takeAttention b code hop).standing = s.standing := by
  unfold State.takeAttention
  split
  · rfl
  · split
    · split
      · rfl
      · exact s.joinNotice_standing _
    · rfl

end Sys2Proof.Machine

namespace Sys2Proof.Machine

open Sys2Proof

/-! ### What stands: the management unit and the classifier -/

@[simp] theorem State.releaseRecord_standing (s : State) (b : Branch) (p : Position) :
    (s.releaseRecord b p).standing = s.standing := by
  unfold State.releaseRecord
  refine (State.removeNotices_standing _ _).trans ?_
  cases s.record b p <;> rfl

@[simp] theorem State.wakeBranch_standing (s : State) (b : Branch) : (s.wakeBranch b).standing = s.standing := by
  unfold State.wakeBranch
  dsimp only
  split <;> simp

@[simp] theorem State.ackSelf_standing (s : State) (cs : CauseSet) : (s.ackSelf cs).standing = s.standing := by
  unfold State.ackSelf
  dsimp only
  split
  · exact s.removeNotices_standing _
  · split
    · rfl
    · exact s.afterRemoval_standing _ _

@[simp] theorem State.ackNotice_standing (s : State) (src : Source) (cs : CauseSet) :
    (s.ackNotice src cs).standing = s.standing := by
  cases src with
  | self => exact s.ackSelf_standing cs
  | attachment b p => exact s.removeNotices_standing _

@[simp] theorem State.applyCommand_standing (s : State) (c : Command) : (s.applyCommand c).standing = s.standing := by
  cases c with
  | enumerate b => exact s.startEnumeration_standing b
  | release b p => exact s.releaseRecord_standing b p
  | branchReset b => exact s.resetBranch_standing b
  | dormant b => exact State.judgeDrain_standing _ b
  | wake b => exact s.wakeBranch_standing b
  | noticeAck src cs => exact s.ackNotice_standing src cs
  | clearCounters => rfl

/-- The command that a word names, if it names one. -/
theorem State.applyNamed_standing (s : State) (c : Option Command) :
    ((c.map fun c => s.applyCommand c).getD s).standing = s.standing := by
  cases c with
  | none => rfl
  | some c => exact s.applyCommand_standing c

theorem State.applyRecord_standing (s : State) (r : MgmtRequest) (x : WordRecord) :
    (s.applyRecord r x).standing = s.standing := by
  cases x with
  | unmapped | readOnly | interval => rfl
  | window i j => cases j <;> rfl
  | config b j => cases j <;> rfl
  | globalCommand => exact s.applyNamed_standing _
  | branchCommand b => exact s.applyNamed_standing _

theorem State.applyRecords_standing (r : MgmtRequest) (xs : List WordRecord) (s : State) :
    (xs.foldl (State.applyRecord r) s).standing = s.standing := by
  induction xs generalizing s with
  | nil => rfl
  | cons x xs ih => exact (ih _).trans (s.applyRecord_standing r x)

theorem State.countWrite_standing (s : State) (c : Option Command) : (s.countWrite c).standing = s.standing := by
  unfold State.countWrite
  split <;> rfl

theorem State.carryOutWrite_standing (s : State) (r : MgmtRequest) : (s.carryOutWrite r).standing = s.standing := by
  unfold State.carryOutWrite
  split
  · exact State.answer_standing _ _ _
  · rw [State.answer_standing, State.countWrite_standing, State.applyRecords_standing]

theorem State.carryOut_standing (s : State) (r : MgmtRequest) : (s.carryOut r).standing = s.standing := by
  unfold State.carryOut
  split
  · exact State.placeReply_standing _ _ _ _ _
  · exact State.placeReply_standing _ _ _ _ _
  · exact s.carryOutWrite_standing r
  · exact s.carryOutWrite_standing r

/-! ### The classifier -/

theorem State.refuseRequest_standing (s : State) (h : ReqHeader) (why : RefuseReason) :
    (s.refuseRequest h why).standing = s.standing := by
  cases h with
  | tagged k t => exact State.placeReply_standing _ t _ _ _
  | post => rfl

theorem State.enqueueRequest_standing (s : State) (r : Request) (i : WindowIx) (b : Branch) (addr : Nat) (p : Position) :
    (s.enqueueRequest r i b addr p).standing = s.standing := by
  rw [State.enqueueRequest_eq]
  dsimp only
  split
  · exact State.enterWaking_standing _ b
  · rfl

theorem State.settle_standing (s : State) (r : Request) (v : Verdict) : (s.settle r v).standing = s.standing := by
  unfold State.settle
  split
  · exact State.refuseRequest_standing _ _ _
  · split <;> rfl
  · exact State.enqueueRequest_standing _ _ _ _ _ _

theorem State.retestHeld_standing (s : State) : s.retestHeld.standing = s.standing := by
  unfold State.retestHeld
  split
  · exact State.settle_standing _ _ _
  · rfl
  · rfl

theorem State.takeHead_standing (s : State) : s.takeHead.standing = s.standing := by
  unfold State.takeHead
  split
  · rfl
  · rfl
  · split
    · exact s.settle_standing _ _
    · split
      · split
        · exact State.raise_standing _ _
        · exact State.settle_standing _ _ _
      · rfl

theorem State.executeHead_standing (s : State) (row : MgmtRow) : (s.executeHead row).standing = s.standing := by
  unfold State.executeHead
  split
  · rfl
  · split
    · exact (State.carryOut_standing _ _).trans (State.retestHeld_standing _)
    · rfl

/-- The presentation that was owed, made at the part's becoming ASSIGNED (R157). -/
theorem State.makeOwed_standing (s : State) : s.makeOwed.standing = s.standing := by
  unfold State.makeOwed
  dsimp only
  split
  · exact State.presentationDue_standing _
  · rfl

end Sys2Proof.Machine

namespace Sys2Proof.Machine

open Sys2Proof

/-! ### What every command leaves -/

/-- State t has the commands that wait, the identity number and S of s, and its clock is no earlier. -/
structure State.Follows (s t : State) : Prop where
  pending : t.pending = s.pending
  identity : t.identity = s.identity
  spanExp : t.spanExp = s.spanExp
  now : s.now ≤ t.now

theorem State.Follows.of_standing {s t : State} (h : t.standing = s.standing) : s.Follows t := by
  simp only [State.standing, Prod.mk.injEq] at h
  obtain ⟨hpending, hidentity, hspan, hnow⟩ := h
  exact ⟨hpending, hidentity, hspan, hnow.ge⟩

/-- A timer that runs out moves the clock on to its time, if it moves it (assumption 1). -/
theorem State.runOut_follows (s : State) (d : Time) {act : State → State}
    (h : ∀ x : State, (act x).standing = x.standing) : s.Follows (s.runOut d act) := by
  unfold State.runOut
  split
  · have acted := State.Follows.of_standing (h (s.advanceTo d))
    exact ⟨acted.pending, acted.identity, acted.spanExp, (Nat.le_max_left _ _).trans acted.now⟩
  · exact .of_standing rfl

/-! ### The commands of the timers -/

theorem execTrainingAttemptTimeout_follows (p : Port) (s : State) :
    ∃ t, execTrainingAttemptTimeout p s = .next t ∧ s.Follows t := by
  refine ⟨_, rfl, ?_⟩
  split
  · exact s.runOut_follows _ fun x => x.updPort_standing p _
  all_goals exact .of_standing rfl

theorem execQuietRelistenTimeout_follows (b : Branch) (still : Bool) (s : State) :
    ∃ t, execQuietRelistenTimeout b still s = .next t ∧ s.Follows t := by
  refine ⟨_, rfl, ?_⟩
  split
  · refine s.runOut_follows _ fun x => ?_
    dsimp only
    split
    · exact State.wakeByNeighbour_standing _ b
    · rfl
  all_goals exact .of_standing rfl

theorem execAgeDeadlineExpiry_follows (b : Branch) (s : State) :
    ∃ t, execAgeDeadlineExpiry b s = .next t ∧ s.Follows t := by
  refine ⟨_, rfl, ?_⟩
  split
  · exact .of_standing rfl
  · exact s.runOut_follows _ fun x => x.ageSlots_standing b

theorem execReplyDeadlineExpiry_follows (e : EntryIx) (s : State) :
    ∃ t, execReplyDeadlineExpiry e s = .next t ∧ s.Follows t := by
  refine ⟨_, rfl, ?_⟩
  split
  · exact s.runOut_follows _ fun x => x.replyTimedOut_standing e _ _
  all_goals exact .of_standing rfl

theorem execOrphanDeadlineExpiry_follows (e : EntryIx) (s : State) :
    ∃ t, execOrphanDeadlineExpiry e s = .next t ∧ s.Follows t := by
  refine ⟨_, rfl, ?_⟩
  split
  · exact s.runOut_follows _ fun _ => rfl
  all_goals exact .of_standing rfl

theorem State.identifyTimeout_follows (s : State) (b : Branch) : s.Follows (s.identifyTimeout b) := by
  unfold State.identifyTimeout
  split
  · exact s.runOut_follows _ fun x => x.endEnumeration_standing b _
  · exact s.runOut_follows _ fun x => State.endEnumeration_standing _ b _
  · exact .of_standing rfl

theorem execWakeTimerExpiry_follows (b : Branch) (s : State) :
    ∃ t, execWakeTimerExpiry b s = .next t ∧ s.Follows t := by
  refine ⟨_, rfl, ?_⟩
  split
  · exact s.runOut_follows _ fun x => x.wakeFails_standing b
  all_goals exact .of_standing rfl

theorem execRePresentTimerExpiry_follows (s : State) : ∃ t, execRePresentTimerExpiry s = .next t ∧ s.Follows t := by
  refine ⟨_, rfl, ?_⟩
  split
  · exact s.runOut_follows _ fun _ => State.presentationDue_standing _
  · exact .of_standing rfl

/-! ### The commands of the ports -/

/-- An ASSIGN hands ASSIGNED and makes the presentation that was owed, or is ignored (R157, R168). -/
theorem execUAssign_follows (base : Word) (s : State) : ∃ t, execUAssign base s = .next t ∧ s.Follows t := by
  refine ⟨_, rfl, .of_standing (s.onU_standing fun x => ?_)⟩
  dsimp only
  split
  · exact State.makeOwed_standing _
  · rfl

/-- A RELEASE of the part's own base retests the held request, another is ignored (R169). -/
theorem execURelease_follows (base : Word) (s : State) : ∃ t, execURelease base s = .next t ∧ s.Follows t := by
  refine ⟨_, rfl, .of_standing (s.onU_standing fun x => ?_)⟩
  dsimp only
  split
  · exact State.retestHeld_standing _
  · rfl

theorem execUCreditSent_follows (s : State) : ∃ t, execUCreditSent s = .next t ∧ s.Follows t :=
  ⟨_, rfl, .of_standing (by split <;> rfl)⟩

theorem execUnknownFrameDiscarded_follows (p : Port) (s : State) :
    ∃ t, execUnknownFrameDiscarded p s = .next t ∧ s.Follows t := by
  cases p with
  | u => exact ⟨_, rfl, .of_standing (s.onU_standing fun _ => rfl)⟩
  | branch b => exact ⟨_, rfl, .of_standing (s.onBranch_standing b fun _ => rfl)⟩

theorem execLinkEntersUp_follows (p : Port) (s : State) : ∃ t, execLinkEntersUp p s = .next t ∧ s.Follows t := by
  refine ⟨_, rfl, .of_standing ?_⟩
  split
  · cases p with
    | u => rfl
    | branch b => exact s.branchEntersUp_standing b
  · rfl

theorem execWakeTaken_follows (p : Port) (s : State) : ∃ t, execWakeTaken p s = .next t ∧ s.Follows t := by
  refine ⟨_, rfl, .of_standing ?_⟩
  split
  · cases p with
    | u => rfl
    | branch b => exact s.wakeByNeighbour_standing b
  · rfl

theorem execCredit_follows (b : Branch) (n : Byte) (s : State) : ∃ t, execCredit b n s = .next t ∧ s.Follows t := by
  refine ⟨_, rfl, .of_standing ?_⟩
  split
  · exact State.receiveCredit_standing _ b n
  · rfl

theorem execBranchClearSent_follows (b : Branch) (s : State) :
    ∃ t, execBranchClearSent b s = .next t ∧ s.Follows t := by
  refine ⟨_, rfl, .of_standing ?_⟩
  have leaves : ∀ rest, (if (s.br b).port.link = .up then State.clearSent b (s.updBr b fun u => { u with unsent := rest })
      else s).standing = s.standing := fun rest => by
    split
    · exact State.clearSent_standing _ b
    · rfl
  split
  · exact leaves _
  · exact leaves _
  · rfl

theorem execHushSent_follows (b : Branch) (s : State) : ∃ t, execHushSent b s = .next t ∧ s.Follows t := by
  refine ⟨_, rfl, .of_standing ?_⟩
  split
  · split
    · exact State.afterHush_standing _ b
    · rfl
  · rfl

theorem execBranchFrameSent_follows (b : Branch) (s : State) :
    ∃ t, execBranchFrameSent b s = .next t ∧ s.Follows t := by
  refine ⟨_, rfl, .of_standing ?_⟩
  have leaves : ∀ rest, (if (s.br b).port.link = .up then s.updBr b fun u => { u with unsent := rest }
      else s).standing = s.standing := fun rest => by split <;> rfl
  cases (s.br b).unsent with
  | nil => rfl
  | cons f rest =>
    cases f with
    | clear | resetClear | hush => rfl
    | tagged | post | identify | assign | release => exact leaves rest

/-! ### Every command -/

/-- Every command but POWER_ON_RESET leaves the commands that wait, the identity number and S. -/
theorem exec_follows (c : Instr) (s : State) (h : ∀ span1 span0, c ≠ .powerOnReset span1 span0) :
    ∃ t, exec c s = .next t ∧ s.Follows t := by
  cases c with
  | powerOnReset span1 span0 => exact absurd rfl (h span1 span0)
  | resetAsserted => exact ⟨_, rfl, .of_standing rfl⟩
  | requestFrame =>
    exact ⟨_, rfl, .of_standing (s.onFrame_standing _ _ fun x => x.onU_standing fun y => y.receiveRequest_standing _)⟩
  | uCreditSent => exact execUCreditSent_follows s
  | classifierTake => exact ⟨_, rfl, .of_standing s.takeHead_standing⟩
  | uIdentify => exact ⟨_, rfl, .of_standing (s.onU_standing fun _ => rfl)⟩
  | uAssign base => exact execUAssign_follows base s
  | uRelease base => exact execURelease_follows base s
  | uClear => exact ⟨_, rfl, .of_standing (s.onU_standing fun _ => rfl)⟩
  | uHush => exact ⟨_, rfl, .of_standing (s.onU_standing fun _ => State.signalWakeU_standing _)⟩
  | uUnexpectedFrame => exact ⟨_, rfl, .of_standing (s.onU_standing fun _ => rfl)⟩
  | uCreditReceived => exact ⟨_, rfl, .of_standing (s.onU_standing fun _ => rfl)⟩
  | egressFrameSent => exact ⟨_, rfl, .of_standing (by split <;> rfl)⟩
  | uMemberFrameSent => exact ⟨_, rfl, .of_standing (by split <;> rfl)⟩
  | badFrame p => exact ⟨_, rfl, .of_standing (s.receiveBad_standing p)⟩
  | farEndTrains p => exact ⟨_, rfl, .of_standing (s.departure_standing p)⟩
  | lossOfSignal p => exact ⟨_, rfl, .of_standing (s.departure_standing p)⟩
  | unknownFrameDiscarded p => exact execUnknownFrameDiscarded_follows p s
  | branchAwayFrame b => exact ⟨_, rfl, .of_standing (s.onBranch_standing b fun _ => rfl)⟩
  | trainingAttemptTimeout p => exact execTrainingAttemptTimeout_follows p s
  | linkEntersUp p => exact execLinkEntersUp_follows p s
  | wakeTaken p => exact execWakeTaken_follows p s
  | quietRelistenTimeout b still => exact execQuietRelistenTimeout_follows b still s
  | credit b n => exact execCredit_follows b n s
  | issue b => exact ⟨_, rfl, .of_standing (s.issueHead_standing b)⟩
  | ageDeadlineExpiry b => exact execAgeDeadlineExpiry_follows b s
  | reply b =>
    exact ⟨_, rfl, .of_standing
      (s.onFrame_standing _ _ fun x => x.onBranch_standing b fun y => y.takeReply_standing b _ _ _ _)⟩
  | replyDeadlineExpiry e => exact execReplyDeadlineExpiry_follows e s
  | orphanDeadlineExpiry e => exact execOrphanDeadlineExpiry_follows e s
  | descriptor b => exact ⟨_, rfl, .of_standing (s.onBranch_standing b fun x => x.takeDescriptor_standing b _ _)⟩
  | assigned b => exact ⟨_, rfl, .of_standing (s.onBranch_standing b fun x => x.takeAssigned_standing b _)⟩
  | empty b => exact ⟨_, rfl, .of_standing (s.onBranch_standing b fun x => x.takeEmpty_standing b)⟩
  | identifyTimerExpiry b => exact ⟨_, rfl, s.identifyTimeout_follows b⟩
  | chainbreak b => exact ⟨_, rfl, .of_standing (s.onBranch_standing b fun x => x.takeBreak_standing b _)⟩
  | chainmend b => exact ⟨_, rfl, .of_standing (s.onBranch_standing b fun x => x.takeMend_standing b)⟩
  | attention b => exact ⟨_, rfl, .of_standing (s.onBranch_standing b fun x => x.takeAttention_standing b _ _)⟩
  | branchClearSent b => exact execBranchClearSent_follows b s
  | hushSent b => exact execHushSent_follows b s
  | branchFrameSent b => exact execBranchFrameSent_follows b s
  | drainComplete b => exact ⟨_, rfl, .of_standing (s.judgeDrain_standing b)⟩
  | wakeTimerExpiry b => exact execWakeTimerExpiry_follows b s
  | rePresentTimerExpiry => exact execRePresentTimerExpiry_follows s
  | managementRead | managementWrite | windowEntryWrite | configurationWrite | rePresentIntervalWrite | managementSwap
  | enumerate | release | branchReset | dormant | wake | noticeAck | clearCounters =>
    exact ⟨_, rfl, .of_standing (s.executeHead_standing _)⟩

/-- Settles O2: POWER_ON_RESET reads S from the straps and leaves the rest of the fixed things; every other command leaves S
too. -/
theorem everyCommandAnswersAndLeavesTheFixedThings : Obligations.EveryCommandAnswersAndLeavesTheFixedThings := by
  intro c s
  by_cases reset : ∃ span1 span0, c = .powerOnReset span1 span0
  · obtain ⟨span1, span0, rfl⟩ := reset
    exact ⟨_, rfl, rfl, rfl, le_refl _, fun h => absurd rfl (h span1 span0)⟩
  · obtain ⟨t, ht, follows⟩ := exec_follows c s fun span1 span0 e => reset ⟨span1, span0, e⟩
    exact ⟨t, ht, follows.pending, follows.identity, follows.now, fun _ => follows.spanExp⟩

end Sys2Proof.Machine

namespace Sys2Proof.Machine

open Sys2Proof

/-! ### The resets of the whole part (R175) -/

theorem strapSpan_eq (span1 span0 : Bool) :
    strapSpan span1 span0 = if span1 then (if span0 then 28 else 24) else (if span0 then 20 else 16) := by
  cases span1 <;> cases span0 <;> rfl

/-- A branch after a link reset, with its counters zeroed and its port training from OFF, stands as after power-on. -/
theorem BranchUnit.startPort_afterLinkReset (t : Time) (u : BranchUnit) :
    (u.afterLinkReset t).zeroCounters.startPort t = .afterPowerOn t :=
  rfl

/-- Settles O4: the link reset with every counter zeroed leaves the window table cleared and each branch as after power-on. -/
theorem powerOnResetFromAnyState : Obligations.PowerOnResetFromAnyState := by
  intro span1 span0 s
  have windows : s.linkReset.zeroCounters.windows = State.reset.windows :=
    table_ext fun i => by simp [State.zeroCounters, State.linkReset, State.reset, Window.cleared]
  have branches : mapTable (fun _ u => u.startPort s.now) s.linkReset.zeroCounters.branches =
      Vector.replicate 4 (.afterPowerOn s.now) :=
    mapTable_const _ _ _ fun b => by
      simp only [State.zeroCounters, State.linkReset, mapTable_get, BranchUnit.startPort_afterLinkReset]
  exact congrArg Host.Outcome.next (State.ext_fields rfl rfl (strapSpan_eq span1 span0) rfl rfl rfl rfl rfl rfl rfl windows rfl
    rfl rfl rfl rfl rfl rfl branches rfl rfl rfl rfl rfl rfl rfl)

/-- Settles O5: every port is made OFF with nothing unsent, in one update of the table of branches. -/
theorem resetAssertedHoldsPortsOff : Obligations.ResetAssertedHoldsPortsOff :=
  fun _ => ⟨_, rfl, rfl, fun b => mapTable_get _ _ b, rfl⟩

end Sys2Proof.Machine

namespace Sys2Proof.Machine

open Sys2Proof

/-! ### From received bytes to a command (R187 to R190) -/

/-- The fixed fields of a frame of up to 16 data words, and those words, are at most 69 bytes (R187, R214). -/
theorem WireFrame.fields_length_le {f : WireFrame} (h : f.data.length ≤ 16) :
    f.fixed.length + 4 * f.data.length ≤ 69 := by
  cases f with
  | request | reply =>
    simp only [WireFrame.data] at h
    simp [WireFrame.fixed, WireFrame.data, wordBytes]
    omega
  | identify | descriptor | empty | assign | assigned | release | clear | hush | attention | chainbreak | chainmend | credit =>
    simp [WireFrame.fixed, WireFrame.data, wordBytes, halfBytes]

theorem WireFrame.body_length (f : WireFrame) : f.body.length = 2 + f.fixed.length + 4 * f.data.length := by
  rw [WireFrame.body, List.length_append, List.length_append, flatMap_wordBytes_length]
  rfl

/-- A body of 2 to 71 bytes that is received with its check is the command of the frame that it is read as, or is discarded
where it is none. -/
theorem Received.command_of_body (p : Port) {body : List Byte} (h : 2 ≤ body.length) (h' : body.length ≤ 71) :
    Received.command p { bytes := body ++ halfBytes (crc body), ended := true } =
      (frameOf body).elim (.unknownFrameDiscarded p) (WireFrame.command p) := by
  have whole : Received.body { bytes := body ++ halfBytes (crc body), ended := true } = body :=
    (received_parts body (crc body)).1
  rw [Received.command, received_good body h h', whole]
  cases frameOf body <;> rfl

theorem Received.command_of_frame (p : Port) {f : WireFrame} (h : f.data.length ≤ 16) :
    Received.command p { bytes := f.bytes, ended := true } = f.command p := by
  have bound := f.fields_length_le h
  have length := f.body_length
  rw [WireFrame.bytes, Received.command_of_body p (by omega) (by omega), frameOf_body]
  rfl

/-! ### Bytes that are no frame of their kind (R188) -/

theorem requestOf_none {h : ReqHeader} {fields : List Byte} (hl : fields.length < 5 ∨ (fields.length - 5) % 4 ≠ 0) :
    requestOf h fields = none := by
  unfold requestOf
  split
  · rw [wordsOf_none _ (by simp at hl; omega)]
    rfl
  · rfl

theorem replyOf_none {t : UTag} {fields : List Byte} (hl : fields.length < 2 ∨ (fields.length - 2) % 4 ≠ 0) :
    replyOf t fields = none := by
  unfold replyOf
  split
  · rw [wordsOf_none _ (by simp at hl; omega)]
    rfl
  · rfl

theorem bareOf_none {f : WireFrame} {fields : List Byte} (hl : fields.length ≠ 0) : bareOf f fields = none :=
  if_neg (List.length_eq_zero_iff.not.1 hl)

theorem byteOf_none {f : Byte → WireFrame} {fields : List Byte} (hl : fields.length ≠ 1) : byteOf f fields = none := by
  unfold byteOf
  split
  · exact absurd rfl hl
  · rfl

theorem attentionOf_none {fields : List Byte} (hl : fields.length ≠ 2) : attentionOf fields = none := by
  unfold attentionOf
  split
  · exact absurd rfl hl
  · rfl

theorem baseOf_none {f : Word → WireFrame} {fields : List Byte} (hl : fields.length ≠ 4) : baseOf f fields = none := by
  unfold baseOf
  split
  · exact absurd rfl hl
  · rfl

theorem descriptorOf_none {fields : List Byte} (hl : fields.length ≠ 9) : descriptorOf fields = none := by
  unfold descriptorOf
  split
  · exact absurd rfl hl
  · rfl

/-- The kind code names no kind, or n bytes are not the fixed fields of its kind and, in a request or a REPLY, whole words
after them (R188, R214). -/
def misfits (code n : Nat) : Prop :=
  [0x01, 0x02, 0x03, 0x04, 0x05, 0x10, 0x11, 0x12, 0x13, 0x14, 0x15, 0x16, 0x17, 0x18, 0x19, 0x1A, 0x20].contains code =
      false ∨
    (code ∈ [0x10, 0x16, 0x17] ∧ n ≠ 0) ∨ (code ∈ [0x12, 0x14, 0x19, 0x1A, 0x20] ∧ n ≠ 1) ∨
    (code = 0x18 ∧ n ≠ 2) ∨ (code ∈ [0x13, 0x15] ∧ n ≠ 4) ∨ (code = 0x11 ∧ n ≠ 9) ∨
    (code ∈ [0x01, 0x02, 0x03, 0x04] ∧ (n < 5 ∨ (n - 5) % 4 ≠ 0)) ∨
    (code = 0x05 ∧ (n < 2 ∨ (n - 2) % 4 ≠ 0))

theorem frameOf_none {code second : Byte} {fields : List Byte} (h : misfits code.toNat fields.length) :
    frameOf (code :: second :: fields) = none := by
  unfold frameOf
  dsimp only
  split
  case h_1 e | h_2 e | h_3 e | h_4 e => exact requestOf_none (by simpa [misfits, e] using h)
  case h_5 e => exact replyOf_none (by simpa [misfits, e] using h)
  case h_6 e | h_12 e | h_13 e => exact bareOf_none (by simpa [misfits, e] using h)
  case h_7 e => exact descriptorOf_none (by simpa [misfits, e] using h)
  case h_8 e | h_10 e | h_15 e | h_16 e | h_17 e => exact byteOf_none (by simpa [misfits, e] using h)
  case h_9 e | h_11 e => exact baseOf_none (by simpa [misfits, e] using h)
  case h_14 e => exact attentionOf_none (by simpa [misfits, e] using h)
  case h_18 => rfl

/-! ### Frames that are discarded (R167, R189, R190, R199) -/

/-- A good frame that arrives on a branch while its link is UP is taken, and makes the count of bad frames in a row 0 (R187). -/
theorem State.onBranch_of_up {s : State} {b : Branch} (h : (s.br b).port.link = .up) (take : State → State) :
    s.onBranch b take = take (s.setBr b { s.br b with port := { (s.br b).port with badRun := 0 } }) := by
  have takes : (s.br b).takesFrames = true := by simp [BranchUnit.takesFrames, h]
  rw [State.onBranch, if_pos takes, State.goodFrameOn, State.updBr_eq, LinkPort.goodFrame, if_pos h]

/-- A good frame that a branch discards is counted and nothing else (R190, R199). -/
theorem State.onBranch_discardOn {s : State} {b : Branch} (h : (s.br b).port.link = .up) :
    s.onBranch b (State.discardOn b) = s.setBr b { s.br b with port := { (s.br b).port with
      badRun := 0
      counters := { (s.br b).port.counters with discarded := (s.br b).port.counters.discarded + 1 } } } := by
  rw [State.onBranch_of_up h, State.discardOn, State.updBr_eq, State.br_setBr, State.setBr_setBr]
  rfl

/-- Settles O12: a body is read back as its frame and a body of another length as none; a discarded frame is a good one that
its port takes and counts. -/
theorem discardedFramesAreCounted : Obligations.DiscardedFramesAreCounted := by
  refine ⟨fun p f h => Received.command_of_frame p h, ?_, fun s => ⟨?_, ?_⟩⟩
  · rintro p code second fields hlen n any rfl rfl h
    have length : (code :: second :: fields).length = fields.length + 2 := rfl
    rw [Received.command_of_body p (by omega) (by omega), frameOf_none h]
    rfl
  · rintro hup a rfl
    refine ⟨fun _ => congrArg Host.Outcome.next (State.onU_of_up hup _), ?_⟩
    rintro d rfl
    exact ⟨fun _ => congrArg Host.Outcome.next (State.onU_of_up hup _), congrArg Host.Outcome.next (State.onU_of_up hup _)⟩
  · rintro b hup d rfl
    exact ⟨congrArg Host.Outcome.next (State.onBranch_discardOn hup),
      fun _ => congrArg Host.Outcome.next (State.onBranch_discardOn hup)⟩

end Sys2Proof.Machine

namespace Sys2Proof.Machine

open Sys2Proof

/-! ### Bytes that are bad (R186, R187) -/

theorem littleEndian_halfBytes_toNat (c : BitVec 16) : littleEndian (halfBytes c) = c.toNat := by
  simp only [halfBytes, littleEndian, BitVec.extractLsb'_toNat, Nat.shiftRight_eq_div_pow]
  have := c.isLt
  omega

/-- Two bytes that as a number, least significant first, are not the check are not its bytes. -/
theorem halfBytes_ne {c : BitVec 16} {lo hi : Byte} (h : lo.toNat + 256 * hi.toNat ≠ c.toNat) : halfBytes c ≠ [lo, hi] := by
  intro same
  have value := littleEndian_halfBytes_toNat c
  rw [same] at value
  exact h value

/-- Where the last two bytes received are not the check of those before them, what was received is bad. -/
theorem Received.bad_of_check {r : Received} {body : List Byte} {lo hi : Byte} (hr : r.bytes = body ++ [lo, hi])
    (h : lo.toNat + 256 * hi.toNat ≠ (crc body).toNat) : r.bad = true := by
  have length : r.bytes.length - 2 = body.length := by simp [hr]
  have whole : r.body = body := by rw [Received.body, length, hr, List.take_left]
  have check : r.bytes.drop (r.bytes.length - 2) = [lo, hi] := by rw [length, hr, List.drop_left]
  simp [Received.bad, whole, check, halfBytes_ne h]

theorem Received.command_of_bad (p : Port) {r : Received} (h : r.bad = true) : r.command p = .badFrame p :=
  if_pos h

/-! ### The state of a port and its change -/

@[simp] theorem State.portOf_updPort (s : State) (p : Port) (f : LinkPort → LinkPort) :
    (s.updPort p f).portOf p = f (s.portOf p) := by
  cases p with
  | u => rfl
  | branch b => simp [State.updPort, State.portOf]

@[simp] theorem State.hushWindow_updPort (s : State) (p : Port) (f : LinkPort → LinkPort) :
    (s.updPort p f).hushWindow p = s.hushWindow p := by
  cases p with
  | u => rfl
  | branch b => simp [State.updPort, State.hushWindow, BranchUnit.hushWaits]

/-- What a change makes of a port depends on that port's state alone. -/
theorem State.updPort_congr {s : State} {p : Port} {f g : LinkPort → LinkPort} (h : f (s.portOf p) = g (s.portOf p)) :
    s.updPort p f = s.updPort p g := by
  cases p with
  | u => exact congrArg (fun q => { s with u := { s.u with port := q } }) h
  | branch b => exact congrArg (fun q => s.setBr b { s.br b with port := q }) h

/-! ### Leaving UP does not look at the count of bad frames -/

/-- A port that leaves UP trains or is held OFF, and either way its count of bad frames in a row becomes 0 (R175, R184;
assumption 9). -/
theorem State.leaveUp_badRun (s : State) (p : Port) (n : Nat) :
    (s.updPort p fun q => { q with badRun := n }).leaveUp p = s.leaveUp p := by
  cases p with
  | u => rfl
  | branch b =>
    have trained : State.trainBranch b ((s.updPort (.branch b) fun q => { q with badRun := n }).updBr b
        fun u => { u with unsent := [] }) = State.trainBranch b (s.updBr b fun u => { u with unsent := [] }) := by
      simp only [State.trainBranch, State.updPort, State.updBr_updBr]
      rfl
    have state : ((s.updPort (.branch b) fun q => { q with badRun := n }).br b).state = (s.br b).state := by
      rw [State.updPort, State.br_updBr]
    simp only [State.leaveUp, State.branchLeavesUp, trained, state]

/-! ### What a bad frame and a departure do in each state of the link (R182, R184, R187, R196) -/

section
variable {s : State} {p : Port}

theorem State.departure_of_up (hup : (s.portOf p).link = .up) (h : s.hushWindow p = false) : s.departure p = s.leaveUp p :=
  if_pos ⟨hup, h⟩

theorem State.departure_of_not (h : (s.portOf p).link ≠ .up ∨ s.hushWindow p = true) : s.departure p = s := by
  refine if_neg fun ⟨hup, hhush⟩ => ?_
  rcases h with h | h
  · exact h hup
  · rw [hhush] at h
    exact Bool.false_ne_true h

/-- A bad frame that is not the third in a row raises the count. -/
theorem State.receiveBad_of_few (hup : (s.portOf p).link = .up) (h : s.hushWindow p = false)
    (hrun : (s.portOf p).badRun + 1 < 3) :
    s.receiveBad p = (s.updPort p LinkPort.countBad).updPort p fun q => { q with badRun := q.badRun + 1 } := by
  have few : ¬ Config.badRunLimit ≤ (s.portOf p).badRun + 1 := Nat.not_le.2 hrun
  simp only [State.receiveBad, hup, h, Bool.false_eq_true, if_false, if_neg few]
  exact State.updPort_congr (by rw [State.portOf_updPort]; rfl)

/-- The third bad frame in a row is counted, and the port leaves UP as it does when the far end trains. -/
theorem State.receiveBad_of_third (hup : (s.portOf p).link = .up) (h : s.hushWindow p = false)
    (hrun : 3 ≤ (s.portOf p).badRun + 1) : s.receiveBad p = (s.updPort p LinkPort.countBad).departure p := by
  have third : Config.badRunLimit ≤ (s.portOf p).badRun + 1 := hrun
  have departs : (s.updPort p LinkPort.countBad).departure p = (s.updPort p LinkPort.countBad).leaveUp p :=
    State.departure_of_up (by rw [State.portOf_updPort]; exact hup) (by rw [State.hushWindow_updPort]; exact h)
  rw [departs, ← State.leaveUp_badRun _ p ((s.portOf p).badRun + 1)]
  simp only [State.receiveBad, hup, h, Bool.false_eq_true, if_false, if_pos third]

theorem State.receiveBad_of_hushWindow (hup : (s.portOf p).link = .up) (h : s.hushWindow p = true) :
    s.receiveBad p = s.updPort p LinkPort.countBad := by
  simp only [State.receiveBad, hup, h, if_true]

theorem State.receiveBad_of_quiet (hquiet : (s.portOf p).link = .quiet) (h : (s.portOf p).relistenTimer = none) :
    s.receiveBad p = s.updPort p LinkPort.countBad := by
  simp only [State.receiveBad, hquiet, if_pos h]

theorem State.receiveBad_of_relisten (hquiet : (s.portOf p).link = .quiet) (h : (s.portOf p).relistenTimer ≠ none) :
    s.receiveBad p = s := by
  simp only [State.receiveBad, hquiet, if_neg h]

theorem State.receiveBad_of_training (h : (s.portOf p).link = .training) :
    s.receiveBad p = s.updPort p LinkPort.countBad := by
  simp only [State.receiveBad, h]

theorem State.receiveBad_of_off (h : (s.portOf p).link = .off) : s.receiveBad p = s := by
  simp only [State.receiveBad, h]

end

/-- Settles O13: bytes are bad by each test of the port, and the bad frame is one happening for each state of the link; the
third in a row is a departure, since a port that leaves UP forgets the count. -/
theorem badFramesCountAndThreeLeaveUp : Obligations.BadFramesCountAndThreeLeaveUp := by
  refine ⟨fun p r hbad => Received.command_of_bad p ?_, ?_⟩
  · rcases hbad with hcut | hshort | hlong | ⟨body, lo, hi, hr, hcheck⟩
    · simp [Received.bad, hcut]
    · simp [Received.bad, hshort]
    · simp [Received.bad, Config.maxFrameBytes, hlong]
    · exact Received.bad_of_check hr hcheck
  · rintro p s counted rfl
    refine ⟨fun hup hhush => ⟨fun hrun => ?_, fun hrun => ?_⟩, fun hup hhush => ?_, fun hquiet hlisten => ?_,
      fun htrain => ?_, ?_, fun h => ?_⟩
    · exact congrArg Host.Outcome.next (State.receiveBad_of_few hup hhush hrun)
    · exact congrArg Host.Outcome.next (State.receiveBad_of_third hup hhush hrun)
    · exact congrArg Host.Outcome.next (State.receiveBad_of_hushWindow hup hhush)
    · exact congrArg Host.Outcome.next (State.receiveBad_of_quiet hquiet hlisten)
    · exact congrArg Host.Outcome.next (State.receiveBad_of_training htrain)
    · rintro (hoff | ⟨hquiet, hrelisten⟩)
      · exact congrArg Host.Outcome.next (State.receiveBad_of_off hoff)
      · exact congrArg Host.Outcome.next (State.receiveBad_of_relisten hquiet hrelisten)
    · exact ⟨congrArg Host.Outcome.next (State.departure_of_not h), congrArg Host.Outcome.next (State.departure_of_not h)⟩

/-! ### CREDIT on a branch (R185, R187, R192, R193) -/

section
variable {s : State} {b : Branch} {n : Byte}

/-- A good frame received in UP makes the count of bad frames in a row 0 and changes nothing else (R187). -/
theorem State.goodFrameOn_of_up (h : (s.br b).port.link = .up) :
    s.goodFrameOn b = s.setBr b { s.br b with port := { (s.br b).port with badRun := 0 } } := by
  rw [State.goodFrameOn, State.updBr_eq, LinkPort.goodFrame, if_pos h]

theorem exec_credit_of_not_up (h : (s.br b).port.link ≠ .up) : exec (.credit b n) s = .next s :=
  congrArg Host.Outcome.next (if_neg h)

/-- On a link that is UP a CREDIT is a good frame, and its increment is received. -/
theorem exec_credit_of_up (h : (s.br b).port.link = .up) : exec (.credit b n) s =
    .next (State.receiveCredit b n (s.setBr b { s.br b with port := { (s.br b).port with badRun := 0 } })) :=
  congrArg Host.Outcome.next ((if_pos h).trans (by rw [State.goodFrameOn_of_up h]))

theorem State.receiveCredit_of_room (h1 : 1 ≤ n.toNat) (h16 : n.toNat ≤ 16) (h : (s.br b).credit + n.toNat ≤ 255) :
    s.receiveCredit b n = s.setBr b { s.br b with credit := (s.br b).credit + n.toNat } := by
  have room : ¬ Config.creditMax < (s.br b).credit + n.toNat := Nat.not_lt.2 h
  simp only [State.receiveCredit, if_pos (And.intro h1 h16), State.updBr_eq, if_neg room]

theorem State.receiveCredit_of_overflow (h1 : 1 ≤ n.toNat) (h16 : n.toNat ≤ 16) (h : 255 < (s.br b).credit + n.toNat) :
    s.receiveCredit b n = s.setBr b { s.br b with credit := 255, port := (s.br b).port.countOverflow } := by
  have above : Config.creditMax < (s.br b).credit + n.toNat := h
  simp only [State.receiveCredit, if_pos (And.intro h1 h16), State.updBr_eq, if_pos above]
  rfl

theorem State.receiveCredit_of_invalid (h : n.toNat = 0 ∨ 16 < n.toNat) : s.receiveCredit b n = s.discardOn b :=
  if_neg (by omega)

end

/-- Settles O17: a CREDIT taken in UP is received on the state that has noted a good frame, by the range of its increment and of
the sum. -/
theorem creditIsAddedUpTo255 : Obligations.CreditIsAddedUpTo255 := by
  refine fun b n s => ⟨exec_credit_of_not_up, fun hup => ⟨fun h1 h16 hroom => ?_, fun h1 h16 hover => ?_, fun hbad => ?_⟩⟩
  · rw [exec_credit_of_up hup, State.receiveCredit_of_room h1 h16 (by rwa [State.br_setBr]), State.br_setBr, State.setBr_setBr]
  · rw [exec_credit_of_up hup, State.receiveCredit_of_overflow h1 h16 (by rwa [State.br_setBr]), State.br_setBr,
      State.setBr_setBr]
    rfl
  · rw [exec_credit_of_up hup, State.receiveCredit_of_invalid hbad, State.discardOn, State.updBr_eq, State.br_setBr,
      State.setBr_setBr]
    rfl

end Sys2Proof.Machine

namespace Sys2Proof.Machine

open Sys2Proof

/-! ### MANAGEMENT_SWAP (R207) -/

/-- The head of the queue, where it is a SWAP, executes under the row of MANAGEMENT_SWAP and is carried out as one (R202). -/
theorem exec_managementSwap {s : State} {t : UTag} {offset count : Nat} {data : List Word}
    (hhead : s.mgmtQueue.head? = some ⟨.tagged .swap t, offset, count, data⟩) :
    exec .managementSwap s = .next (s.afterHeadLeaves.carryOutSwap t) :=
  congrArg Host.Outcome.next (State.executeHead_eq hhead rfl)

/-- Settles O45: the head is carried out as a SWAP, which is answered DENIED with the count of the denied and nothing else. -/
theorem swapIsDenied : Obligations.SwapIsDenied := by
  rintro s t offset count data hhead v rfl
  exact exec_managementSwap hhead

/-! ### The CLEAR_COUNTERS command (R208, R209) -/

/-- A command word of code 2 names CLEAR-COUNTERS (R208). -/
theorem globalCommand_clearCounters {w : Word} (hw : w.toNat % 16 = 2) : globalCommand w = some .clearCounters := by
  simp [globalCommand, bitsOf_code, hw]

/-- A write of such a word executes under the row of CLEAR_COUNTERS (R202). -/
theorem MgmtRequest.row_clearCounters {h : ReqHeader} {w : Word} (hwrite : isWrite h = true) (hw : w.toNat % 16 = 2) :
    MgmtRequest.row ⟨h, 0x018, 1, [w]⟩ = .clearCounters := by
  have code : bitsOf (MgmtRequest.wordAt ⟨h, 0x018, 1, [w]⟩ globalCommandOffset) 3 0 = 2 := by
    rw [globalCommandOffset, one_wordAt, bitsOf_code, hw]
  rw [MgmtRequest.row_write _ hwrite, MgmtRequest.writeRow, one_records _ _ _ _ wordRecord_globalCommand]
  simp [MgmtRequest.commandRow?, code]

/-- The command is accepted in every state: the counters are zeroed, and the write, which is not counted, is answered OK
(R206, R209). -/
theorem exec_clearCounters {s : State} {h : ReqHeader} {w : Word} (hn : s.nextWrite h 0x018 [w]) (hw : w.toNat % 16 = 2) :
    exec .clearCounters s = .next (State.answer h .ok s.afterHeadLeaves.zeroCounters) := by
  obtain ⟨hwrite, hhead⟩ := hn
  have names : MgmtRequest.command? ⟨h, 0x018, 1, [w]⟩ .globalCommand = some .clearCounters :=
    (congrArg globalCommand (one_wordAt h 0x018 w)).trans (globalCommand_clearCounters hw)
  have executed : exec .clearCounters s = .next (s.afterHeadLeaves.carryOutWrite ⟨h, 0x018, 1, [w]⟩) := by
    simpa only [List.length_singleton, MgmtRequest.row_clearCounters hwrite hw, MgmtRow.command] using exec_write hhead hwrite
  exact executed.trans (congrArg Host.Outcome.next
    (State.carryOutWrite_command _ h _ w _ .clearCounters wordRecord_globalCommand rfl names rfl))

/-- The hit counter of a window entry is one of the counters zeroed (R209). -/
theorem State.zeroCounters_window (s : State) (i : WindowIx) : s.zeroCounters.windows[i] = { s.windows[i] with hits := 0 } :=
  mapTable_get _ _ _

/-- So are the counters in the record of a branch (R209). -/
theorem State.br_zeroCounters (s : State) (b : Branch) : s.zeroCounters.br b = (s.br b).zeroCounters :=
  mapTable_get _ _ _

/-- Settles O53: the write zeroes the counters, entry by entry and branch by branch in the two tables. -/
theorem clearCountersZeroesEveryCounter : Obligations.ClearCountersZeroesEveryCounter := by
  rintro s h w hn hw v rfl
  exact ⟨s.afterHeadLeaves.zeroCounters, exec_clearCounters hn hw, State.zeroCounters_window _, State.br_zeroCounters _, rfl⟩

end Sys2Proof.Machine

namespace Sys2Proof.Machine

open Sys2Proof

/-! ### The timer that runs out first (assumption 1) -/

/-- What runs out first is one of the timers. -/
theorem earliestTimer_mem {l : List (Time × Instr)} {x : Time × Instr} (h : earliestTimer l = some x) : x ∈ l := by
  induction l generalizing x with
  | nil => exact nomatch h
  | cons a l ih =>
    unfold earliestTimer at h
    cases he : earliestTimer l with
    | none =>
      rw [he] at h
      exact Option.some.inj h ▸ List.mem_cons_self
    | some y =>
      rw [he] at h
      dsimp only at h
      split at h
      · exact Option.some.inj h ▸ List.mem_cons_of_mem _ (ih he)
      · exact Option.some.inj h ▸ List.mem_cons_self

/-- A timer that no other undercuts, and none in front of it equals, is what runs out first. -/
theorem earliestTimer_append_cons {before after : List (Time × Instr)} {x : Time × Instr}
    (hbefore : ∀ y ∈ before, x.1 < y.1) (hafter : ∀ y ∈ after, x.1 ≤ y.1) :
    earliestTimer (before ++ x :: after) = some x := by
  induction before with
  | nil =>
    cases he : earliestTimer after with
    | none => simp [earliestTimer, he]
    | some y =>
      have notEarlier : ¬ y.1 < x.1 := Nat.not_lt.2 (hafter y (earliestTimer_mem he))
      simp [earliestTimer, he, notEarlier]
  | cons a before ih =>
    obtain ⟨ha, hbefore⟩ := List.forall_mem_cons.1 hbefore
    simp [earliestTimer, ih hbefore, ha]

/-- The timer that runs out first has its command due once its time has come. -/
theorem State.dueCommand_of_earliest {s : State} {x : Time × Instr} (h : earliestTimer s.timers = some x) (hdue : x.1 ≤ s.now) :
    s.dueCommand = some x.2 := by
  simp [State.dueCommand, h, hdue]

/-- No command is due exactly where every timer that runs has time left. -/
theorem State.dueCommand_eq_none_iff {s : State} : s.dueCommand = none ↔ ∀ x ∈ s.timers, s.now < x.1 := by
  refine ⟨State.timers_of_noneDue, fun hlate => ?_⟩
  unfold State.dueCommand
  cases he : earliestTimer s.timers with
  | none => rfl
  | some x => exact if_neg (Nat.not_le.2 (hlate x (earliestTimer_mem he)))

/-! ### What a step is (assumptions 1 and 2) -/

/-- With a command waiting, a step carries it out on the state with the rest of the queue. -/
theorem step_of_pending_cons (c : Instr) (rest : List Instr) (s : State) :
    step { s with pending := c :: rest } = exec c { s with pending := rest } := rfl

/-- With no command waiting, the command that is due is carried out. -/
theorem step_of_due {s : State} {c : Instr} (hidle : s.pending = []) (hdue : s.dueCommand = some c) : step s = exec c s := by
  simp [step, hidle, State.idle, hdue]

/-- With no command waiting and none due, a microsecond passes. -/
theorem step_of_noneDue {s : State} (hidle : s.pending = []) (hdue : s.dueCommand = none) :
    step s = .next { s with now := s.now + 1 } := by
  simp [step, hidle, State.idle, hdue]

/-- Settles O1: the timers' list, split at the first of the earliest, decides which command is due. -/
theorem stepTakesFrontCommand : Obligations.StepTakesFrontCommand := by
  refine ⟨step_of_pending_cons, fun s hidle => ⟨?expiry, ?tick⟩⟩
  case expiry =>
    intro d c before after htimers hdue hbefore hafter
    have first : earliestTimer s.timers = some (d, c) := htimers ▸ earliestTimer_append_cons hbefore hafter
    exact step_of_due hidle (State.dueCommand_of_earliest first hdue)
  case tick =>
    exact fun hlate => step_of_noneDue hidle (State.dueCommand_eq_none_iff.2 hlate)

end Sys2Proof.Machine

namespace Sys2Proof.Machine

open Sys2Proof

/-! ### The law of one branch, in its parts (R97, R122, R124, R127, R130, R142, R192) -/

/-- The port of a branch and its link: the link is in step with the branch, and a port that is not UP holds no credit and nothing
unsent (R124, R191, R192). -/
structure BranchUnit.LinkLaw (pin : Bool) (u : BranchUnit) : Prop where
  port : u.port.Lawful
  inStep : u.linkInStep pin = true
  idle : u.port.link ≠ .up → u.credit = 0 ∧ u.unsent = []
  credit : u.credit ≤ Config.creditMax

/-- The frames that wait in the port, and the CLEAR that the branch owes (R125, R127, R128, R130, R131, R141, R195). -/
structure BranchUnit.OrderLaw (pin : Bool) (u : BranchUnit) : Prop where
  hushSleeps : .hush ∈ u.unsent → u.sleepy = true
  hushLast : .hush ∉ u.unsent.dropLast
  oneClear : u.unsent.count .clear ≤ 1
  clearIsOwed : u.clearWaits = true → u.state = .active ∧ u.clearOwed = true
  owedWaits : pin = false → u.state = .active → u.clearOwed = true → u.clearWaits = true
  downOwes : u.state = .down → u.clearOwed = true
  drainingOwesNone : u.state = .draining → u.clearOwed = false
  dormantOwesNone : u.state = .dormant → u.clearOwed = false

/-- The enumeration of a branch: it runs on an ACTIVE branch alone, and the IDENTIFIED record is the one at its working position
(R97, R128). -/
structure BranchUnit.EnumLaw (u : BranchUnit) : Prop where
  active : u.enumerating = true → u.state = .active
  working : ∀ p : Position, (u.records[p]).isIdentified = true ↔ u.workingPosition = some p

theorem BranchUnit.lawful_iff (pin : Bool) (u : BranchUnit) :
    u.Lawful pin ↔ u.LinkLaw pin ∧ u.OrderLaw pin ∧ u.EnumLaw ∧ u.config.inRange = true := by
  constructor
  · rintro ⟨port, step, idle, sleeps, last, one, owed, waits, down, draining, dormant, active, working, range, credit⟩
    exact ⟨⟨port, step, idle, credit⟩, ⟨sleeps, last, one, owed, waits, down, draining, dormant⟩, ⟨active, working⟩, range⟩
  · rintro ⟨⟨port, step, idle, credit⟩, ⟨sleeps, last, one, owed, waits, down, draining, dormant⟩, ⟨active, working⟩, range⟩
    exact ⟨port, step, idle, sleeps, last, one, owed, waits, down, draining, dormant, active, working, range, credit⟩

section

variable {pin : Bool} {u v : BranchUnit}

theorem BranchUnit.Lawful.linkLaw (h : u.Lawful pin) : u.LinkLaw pin :=
  ((u.lawful_iff pin).1 h).1

theorem BranchUnit.Lawful.orderLaw (h : u.Lawful pin) : u.OrderLaw pin :=
  ((u.lawful_iff pin).1 h).2.1

theorem BranchUnit.Lawful.enumLaw (h : u.Lawful pin) : u.EnumLaw :=
  ((u.lawful_iff pin).1 h).2.2.1

theorem BranchUnit.Lawful.inRange (h : u.Lawful pin) : u.config.inRange = true :=
  ((u.lawful_iff pin).1 h).2.2.2

/-! What each part looks at. -/

theorem BranchUnit.LinkLaw.congr (h : u.LinkLaw pin) (hs : v.state = u.state) (hp : v.port = u.port)
    (hc : v.credit = u.credit) (hu : v.unsent = u.unsent) : v.LinkLaw pin := by
  cases u; cases v; cases hs; cases hp; cases hc; cases hu
  exact ⟨h.port, h.inStep, h.idle, h.credit⟩

theorem BranchUnit.OrderLaw.congr (h : u.OrderLaw pin) (hs : v.state = u.state) (ho : v.clearOwed = u.clearOwed)
    (hu : v.unsent = u.unsent) : v.OrderLaw pin := by
  cases u; cases v; cases hs; cases ho; cases hu
  exact ⟨h.hushSleeps, h.hushLast, h.oneClear, h.clearIsOwed, h.owedWaits, h.downOwes, h.drainingOwesNone,
    h.dormantOwesNone⟩

theorem BranchUnit.EnumLaw.congr (h : u.EnumLaw) (hs : v.state = u.state) (hr : v.records = u.records)
    (he : v.enumeration = u.enumeration) : v.EnumLaw := by
  cases u; cases v; cases hs; cases hr; cases he
  exact ⟨h.active, h.working⟩

/-! What a lawful branch says of its link. -/

/-- RESET holds every link OFF (R175). -/
theorem BranchUnit.Lawful.pin_of_link (h : u.Lawful pin) (hl : u.port.link ≠ .off) : pin = false := by
  have step := h.linkLaw.inStep
  cases pin with
  | false => rfl
  | true => exact absurd (by simpa [BranchUnit.linkInStep] using step) hl

/-- A link that is UP with no HUSH waiting is that of an ACTIVE or DRAINING branch (R124, R195). -/
theorem BranchUnit.Lawful.state_of_up (h : u.Lawful pin) (hl : u.port.link = .up) (hh : u.hushWaits = false) :
    u.state = .active ∨ u.state = .draining := by
  have hpin := h.pin_of_link (by simp [hl])
  subst hpin
  have awake : u.hushing = false := by
    cases hg : u.hushing with
    | false => rfl
    | true =>
      simp only [BranchUnit.hushing, Bool.and_eq_true, beq_iff_eq] at hg
      have : BranchFrame.hush ∈ u.unsent := List.mem_of_getLast? hg.2
      simp [BranchUnit.hushWaits, this] at hh
  have step := h.linkLaw.inStep
  cases hs : u.state <;> simp [BranchUnit.linkInStep, hs, hl, awake] at step ⊢

/-- A link in TRAINING is that of a DOWN or WAKING branch (R124). -/
theorem BranchUnit.Lawful.state_of_training (h : u.Lawful pin) (hl : u.port.link = .training) :
    u.state = .down ∨ ∃ d, u.state = .waking d := by
  have hpin := h.pin_of_link (by simp [hl])
  subst hpin
  have step := h.linkLaw.inStep
  cases hs : u.state <;> simp [BranchUnit.linkInStep, hs, hl, BranchUnit.hushing] at step ⊢

/-- A branch that enumerates is ACTIVE, and while RESET is not asserted its link is UP (R97, R124). -/
theorem BranchUnit.Lawful.link_of_awake (h : u.Lawful false) (hs : u.state = .active ∨ u.state = .draining) :
    u.port.link = .up := by
  have step := h.linkLaw.inStep
  rcases hs with hs | hs <;> simpa [BranchUnit.linkInStep, hs] using step

/-- No HUSH waits on a branch that is not to sleep or to wake (R130, R195). -/
theorem BranchUnit.OrderLaw.no_hush (h : u.OrderLaw pin) (hs : u.sleepy = false) : BranchFrame.hush ∉ u.unsent :=
  fun hm => by simp [h.hushSleeps hm] at hs

/-- No CLEAR waits on a branch that is not ACTIVE, or owes none (R127, R141). -/
theorem BranchUnit.OrderLaw.no_clear (h : u.OrderLaw pin) (hs : u.state ≠ .active ∨ u.clearOwed = false) :
    u.clearWaits = false := by
  cases hw : u.clearWaits with
  | false => rfl
  | true => exact absurd (h.clearIsOwed hw) (by rcases hs with hs | hs <;> simp [hs])

theorem BranchUnit.clearWaits_iff (u : BranchUnit) :
    u.clearWaits = true ↔ BranchFrame.clear ∈ u.unsent ∨ BranchFrame.resetClear ∈ u.unsent := by
  simp [BranchUnit.clearWaits]

/-! What makes the parts hold. -/

/-- A port with nothing unsent keeps the law of its frames where the branch owes a CLEAR as its state asks. -/
theorem BranchUnit.OrderLaw.of_empty (hu : u.unsent = []) (hw : pin = false → u.state = .active → u.clearOwed = false)
    (hd : u.state = .down → u.clearOwed = true) (hr : u.state = .draining → u.clearOwed = false)
    (hm : u.state = .dormant → u.clearOwed = false) : u.OrderLaw pin where
  hushSleeps h := by simp [hu] at h
  hushLast := by simp [hu]
  oneClear := by simp [hu]
  clearIsOwed h := by simp [BranchUnit.clearWaits, hu] at h
  owedWaits hp hs ho := by simp [hw hp hs] at ho
  downOwes := hd
  drainingOwesNone := hr
  dormantOwesNone := hm

/-- No enumeration runs, and no record is IDENTIFIED. -/
theorem BranchUnit.EnumLaw.of_idle (he : u.enumeration = .idle) (hr : ∀ p : Position, (u.records[p]).isIdentified = false) :
    u.EnumLaw where
  active h := by simp [BranchUnit.enumerating, he] at h
  working p := by simpa [BranchUnit.workingPosition, he] using hr p

/-- An enumeration runs in its identify phase on an ACTIVE branch, and no record is IDENTIFIED. -/
theorem BranchUnit.EnumLaw.of_identify {d : Time} (he : u.enumeration = .running .identify d) (hs : u.state = .active)
    (hr : ∀ p : Position, (u.records[p]).isIdentified = false) : u.EnumLaw where
  active _ := hs
  working p := by simpa [BranchUnit.workingPosition, he] using hr p

/-- Outside an assign phase no record is IDENTIFIED. -/
theorem BranchUnit.EnumLaw.none_identified (h : u.EnumLaw) (hw : u.workingPosition = none) (p : Position) :
    (u.records[p]).isIdentified = false := by
  cases hi : (u.records[p]).isIdentified with
  | false => rfl
  | true => exact absurd ((h.working p).1 hi) (by simp [hw])

/-- No enumeration runs on a branch that is not ACTIVE. -/
theorem BranchUnit.EnumLaw.idle (h : u.EnumLaw) (hs : u.state ≠ .active) : u.enumeration = .idle := by
  by_contra he
  exact hs (h.active (by simpa [BranchUnit.enumerating] using he))

/-- An idle enumeration leaves no record IDENTIFIED, whatever the branch's state becomes. -/
theorem BranchUnit.EnumLaw.restate (h : u.EnumLaw) (hi : u.enumeration = .idle) (hr : v.records = u.records)
    (he : v.enumeration = u.enumeration) : v.EnumLaw :=
  .of_idle (he.trans hi) fun p => by rw [hr]; exact h.none_identified (by simp [BranchUnit.workingPosition, hi]) p

/-- A record made LOST is not IDENTIFIED. -/
theorem Record.lose_isIdentified (r : Record) : r.lose.isIdentified = false := by
  cases r <;> rfl

end

end Sys2Proof.Machine

namespace Sys2Proof.Machine

open Sys2Proof

/-! ### What keeps the parts of the law -/

/-- A frame other than HUSH and CLEAR: a request, IDENTIFY, ASSIGN or RELEASE (R191). -/
def BranchFrame.Plain (f : BranchFrame) : Prop :=
  f ≠ .hush ∧ f ≠ .clear ∧ f ≠ .resetClear

section

variable {pin : Bool} {u v : BranchUnit}

/-- A change of the port that leaves its link where it is. -/
theorem BranchUnit.LinkLaw.withPort (h : u.LinkLaw pin) (hs : v.state = u.state) (hl : v.port.link = u.port.link)
    (hp : v.port.Lawful) (hc : v.credit = u.credit) (hu : v.unsent = u.unsent) : v.LinkLaw pin where
  port := hp
  inStep := by
    have step := h.inStep
    simpa only [BranchUnit.linkInStep, BranchUnit.hushing, hs, hl, hu] using step
  idle hn := by rw [hc, hu]; exact h.idle (hl ▸ hn)
  credit := hc ▸ h.credit

/-- A change of what waits in a port that is UP: on a branch that is to sleep or to wake the last frame stays. -/
theorem BranchUnit.LinkLaw.reorder (h : u.LinkLaw pin) (hup : u.port.link = .up) (hs : v.state = u.state)
    (hp : v.port = u.port) (hc : v.credit ≤ Config.creditMax)
    (hg : u.sleepy = true → v.unsent.getLast? = u.unsent.getLast?) : v.LinkLaw pin where
  port := hp ▸ h.port
  inStep := by
    have step := h.inStep
    cases hst : u.state <;> simp_all [BranchUnit.linkInStep, BranchUnit.hushing, BranchUnit.sleepy]
  idle hn := absurd (hp ▸ hup) hn
  credit := hc

/-- A plain frame joins those that wait on a branch that is not to sleep or to wake (R50). -/
theorem BranchUnit.OrderLaw.hand (h : u.OrderLaw pin) {f : BranchFrame} (hf : f.Plain) (awake : u.sleepy = false)
    (hs : v.state = u.state) (ho : v.clearOwed = u.clearOwed) (hu : v.unsent = u.unsent ++ [f]) : v.OrderLaw pin := by
  obtain ⟨hh, hc, hr⟩ := hf
  have none := h.no_hush awake
  have waits : v.clearWaits = u.clearWaits := by
    simp [BranchUnit.clearWaits, hu, Ne.symm hc, Ne.symm hr]
  refine ⟨fun hm => ?_, ?_, ?_, ?_, ?_, ?_, ?_, ?_⟩
  · simp [hu, none, Ne.symm hh] at hm
  · simpa [hu] using none
  · simpa [hu, List.count_append, List.count_singleton, hc] using h.oneClear
  · rw [waits, hs, ho]; exact h.clearIsOwed
  · rw [waits, hs, ho]; exact h.owedWaits
  · rw [hs, ho]; exact h.downOwes
  · rw [hs, ho]; exact h.drainingOwesNone
  · rw [hs, ho]; exact h.dormantOwesNone

/-- The HUSH that waits is the last of the frames, so it is not among those behind the first unless it is their last. -/
theorem hush_not_mem_dropLast {f : BranchFrame} {rest : List BranchFrame} (h : BranchFrame.hush ∉ (f :: rest).dropLast) :
    BranchFrame.hush ∉ rest.dropLast := by
  cases rest with
  | nil => simp
  | cons g rest => exact fun hm => h (List.mem_cons_of_mem _ hm)

/-- The oldest frame leaves, a plain one (R191). -/
theorem BranchUnit.OrderLaw.pop (h : u.OrderLaw pin) {f : BranchFrame} {rest : List BranchFrame} (hf : f.Plain)
    (hq : u.unsent = f :: rest) (hs : v.state = u.state) (ho : v.clearOwed = u.clearOwed) (hu : v.unsent = rest) :
    v.OrderLaw pin := by
  obtain ⟨hh, hc, hr⟩ := hf
  have waits : v.clearWaits = u.clearWaits := by
    simp [BranchUnit.clearWaits, hu, hq, Ne.symm hc, Ne.symm hr]
  have last := h.hushLast
  have one := h.oneClear
  rw [hq] at last one
  refine ⟨fun hm => ?_, ?_, ?_, ?_, ?_, ?_, ?_, ?_⟩
  · have := h.hushSleeps (by rw [hq]; exact List.mem_cons_of_mem _ (hu ▸ hm))
    simpa only [BranchUnit.sleepy, hs] using this
  · rw [hu]; exact hush_not_mem_dropLast last
  · rw [hu]; exact (List.count_le_count_cons).trans one
  · rw [waits, hs, ho]; exact h.clearIsOwed
  · rw [waits, hs, ho]; exact h.owedWaits
  · rw [hs, ho]; exact h.downOwes
  · rw [hs, ho]; exact h.drainingOwesNone
  · rw [hs, ho]; exact h.dormantOwesNone

/-- The oldest frame leaves, a CLEAR: one that still waits is still owed (R127; assumption 13). -/
theorem BranchUnit.OrderLaw.popClear (h : u.OrderLaw pin) {f : BranchFrame} {rest : List BranchFrame}
    (hf : f = .clear ∨ f = .resetClear) (hq : u.unsent = f :: rest) (hs : v.state = u.state) (hu : v.unsent = rest)
    (ho : v.clearOwed = (u.clearOwed && v.clearWaits)) : v.OrderLaw pin := by
  have waited : u.clearWaits = true := by
    rw [BranchUnit.clearWaits_iff, hq]
    rcases hf with rfl | rfl <;> simp
  obtain ⟨active, owed⟩ := h.clearIsOwed waited
  have none := h.no_hush (by simp [BranchUnit.sleepy, active])
  have one := h.oneClear
  rw [hq] at none one
  rw [owed, Bool.true_and] at ho
  have none : BranchFrame.hush ∉ v.unsent := fun hm => none (List.mem_cons_of_mem _ (hu ▸ hm))
  refine ⟨fun hm => absurd hm none, fun hm => none (List.dropLast_subset _ hm), ?_, fun hw => ⟨hs.trans active, ho.trans hw⟩,
    fun _ _ hw => ho ▸ hw, ?_, ?_, ?_⟩
  · rw [hu]; exact (List.count_le_count_cons).trans one
  all_goals rw [hs, active]; exact nofun

end

end Sys2Proof.Machine

namespace Sys2Proof.Machine

open Sys2Proof

/-! ### What the law of the branches looks at -/

/-- What the law looks at of a branch. -/
def BranchUnit.outline (u : BranchUnit) :=
  (u.state, u.clearOwed, u.config, u.records, u.enumeration, u.port, u.credit, u.unsent)

theorem BranchUnit.Lawful.of_outline {pin : Bool} {u v : BranchUnit} (h : u.Lawful pin) (e : v.outline = u.outline) :
    v.Lawful pin := by
  cases u
  cases v
  simp only [BranchUnit.outline, Prod.mk.injEq] at e
  obtain ⟨rfl, rfl, rfl, rfl, rfl, rfl, rfl, rfl⟩ := e
  exact h

/-- What the law looks at of a state. -/
def State.outline (s : State) :=
  (s.resetPin, fun b => (s.br b).outline)

/-- A happening that leaves the outline keeps the law. -/
theorem State.BranchesLawful.of_outline {s t : State} (h : s.BranchesLawful) (e : t.outline = s.outline) :
    t.BranchesLawful := by
  obtain ⟨hp, hb⟩ := Prod.mk.inj e
  intro b
  rw [hp]
  exact (h b).of_outline (congrFun hb b)

theorem State.outline_updBr (s : State) (b : Branch) (f : BranchUnit → BranchUnit)
    (hf : (f (s.br b)).outline = (s.br b).outline) : (s.updBr b f).outline = s.outline := by
  refine congrArg (Prod.mk s.resetPin) (funext fun c => ?_)
  rw [State.updBr_eq, State.br_setBr_eq]
  split
  · rename_i e; rw [e, hf]
  · rfl

theorem State.outline_of_branches {s t : State} (hp : t.resetPin = s.resetPin) (hb : t.branches = s.branches) :
    t.outline = s.outline := by
  rw [State.outline, State.outline, hp]
  exact congrArg (Prod.mk s.resetPin) (funext fun c => congrArg BranchUnit.outline (State.br_of_branches hb c))

@[simp] theorem State.outline_placeReply (s : State) (t : UTag) (st : Status) (d : Byte) (ws : List Word) :
    (s.placeReply t st d ws).outline = s.outline :=
  State.outline_of_branches (by simp) (by simp)

@[simp] theorem State.outline_answer (s : State) (h : ReqHeader) (st : Status) : (s.answer h st).outline = s.outline :=
  State.outline_of_branches (by simp) (by simp)

@[simp] theorem State.outline_answerAll (s : State) (hs : List ReqHeader) (st : Status) :
    (s.answerAll hs st).outline = s.outline :=
  State.outline_of_branches (by simp) (by simp)

@[simp] theorem State.outline_signalWakeU (s : State) : s.signalWakeU.outline = s.outline :=
  State.outline_of_branches (by simp) (by simp)

@[simp] theorem State.outline_presentationDue (s : State) : s.presentationDue.outline = s.outline :=
  State.outline_of_branches (by simp) (by simp)

@[simp] theorem State.outline_joinNotice (s : State) (n : NoticeBody) : (s.joinNotice n).outline = s.outline :=
  State.outline_of_branches (by simp) (by simp)

@[simp] theorem State.outline_raise (s : State) (c : Cause) : (s.raise c).outline = s.outline :=
  State.outline_of_branches (by simp) (by simp)

@[simp] theorem State.outline_afterRemoval (s : State) (kept : List Notice) (g : Bool) :
    (s.afterRemoval kept g).outline = s.outline :=
  State.outline_of_branches (by simp) (by simp)

@[simp] theorem State.outline_removeNotices (s : State) (gone : Source → Bool) :
    (s.removeNotices gone).outline = s.outline :=
  State.outline_of_branches (by simp) (by simp)

@[simp] theorem State.outline_removeNoticesOf (s : State) (b : Branch) (gone : Position → Bool) :
    (s.removeNoticesOf b gone).outline = s.outline :=
  State.outline_of_branches (by simp) (by simp)

/-- The answers and the notice doings of a branch event. -/
@[simp] theorem State.outline_branchEvent (s : State) (hs : List ReqHeader) (st : Status) (b : Branch)
    (gone : Position → Bool) (ended : Bool) (cause : Option Cause) :
    (s.inOpenOrder (State.answerAll hs st) (noticeDoings b gone ended cause)).outline = s.outline := by
  have doings : ∀ x : State, (noticeDoings b gone ended cause x).outline = x.outline := fun x => by
    rw [noticeDoings_frame]; rfl
  rcases State.inOpenOrder_cases (State.answerAll hs st) (noticeDoings b gone ended cause) s with e | e <;> rw [e]
  · rw [State.outline_answerAll, doings]; rfl
  · rw [doings, State.outline_answerAll]; rfl

@[simp] theorem State.outline_freeEntries (s : State) (b : Branch) : (s.freeEntries b).outline = s.outline :=
  rfl

@[simp] theorem State.outline_orphanWaiting (s : State) (b : Branch) (sel : Carried → Bool) (st : Status) :
    (s.orphanWaiting b sel st).outline = s.outline :=
  rfl

@[simp] theorem State.outline_setEntry (s : State) (e : EntryIx) (x : PendingEntry) :
    (s.setEntry e x).outline = s.outline :=
  rfl

@[simp] theorem State.outline_emptyQueue (s : State) (b : Branch) : (s.emptyQueue b).outline = s.outline :=
  s.outline_updBr b _ rfl

@[simp] theorem State.outline_popSlot (s : State) (b : Branch) : (s.popSlot b).outline = s.outline :=
  s.outline_updBr b _ rfl

@[simp] theorem State.outline_countUnexpected (s : State) (b : Branch) : (s.countUnexpected b).outline = s.outline :=
  s.outline_updBr b _ rfl

theorem State.outline_setBr {s t : State} (h : t.outline = s.outline) (b : Branch) {u v : BranchUnit}
    (hv : v.outline = u.outline) : (t.setBr b v).outline = (s.setBr b u).outline := by
  obtain ⟨hp, hb⟩ := Prod.mk.inj h
  refine congrArg₂ Prod.mk hp (funext fun c => ?_)
  rw [State.br_setBr_eq, State.br_setBr_eq]
  split
  · exact hv
  · exact congrFun hb c

/-! ### A good frame on a branch (R187) -/

theorem LinkPort.goodFrame_link (q : LinkPort) : q.goodFrame.link = q.link := by
  unfold LinkPort.goodFrame
  split <;> rfl

section

variable (s : State) (b : Branch)

theorem State.goodFrameOn_br : (s.goodFrameOn b).br b = { s.br b with port := (s.br b).port.goodFrame } :=
  s.br_updBr b _

theorem State.goodFrameOn_enumeration : ((s.goodFrameOn b).br b).enumeration = (s.br b).enumeration := by
  rw [State.goodFrameOn_br]

theorem State.goodFrameOn_record (p : Position) : (s.goodFrameOn b).record b p = s.record b p := by
  rw [State.record, State.goodFrameOn_br, State.record]

theorem State.goodFrameOn_link : ((s.goodFrameOn b).br b).port.link = (s.br b).port.link := by
  rw [State.goodFrameOn_br]
  exact LinkPort.goodFrame_link _

end

/-! ### Changes of one branch that keep the law -/

section

variable {s : State}

/-- A happening that leaves the outline of a state with one branch changed. -/
theorem State.BranchesLawful.of_setBr (h : s.BranchesLawful) {t : State} {b : Branch} {v : BranchUnit}
    (e : t.outline = (s.setBr b v).outline) (hv : (s.br b).Lawful s.resetPin → v.Lawful s.resetPin) :
    t.BranchesLawful := by
  refine State.BranchesLawful.of_outline (s := s.setBr b v) (fun c => ?_) e
  rw [State.br_setBr_eq]
  split
  · exact hv (h b)
  · exact h c

theorem State.BranchesLawful.updBr (h : s.BranchesLawful) (b : Branch) (f : BranchUnit → BranchUnit)
    (hf : (s.br b).Lawful s.resetPin → (f (s.br b)).Lawful s.resetPin) : (s.updBr b f).BranchesLawful := by
  intro c
  rw [State.updBr_eq, State.br_setBr_eq]
  split
  · exact hf (h b)
  · exact h c

/-- A port that is changed without leaving its link (R187, R193, R196). -/
theorem State.BranchesLawful.withPort (h : s.BranchesLawful) (b : Branch) (f : BranchUnit → BranchUnit)
    (hf : (f (s.br b)).outline = { s.br b with port := (f (s.br b)).port }.outline)
    (hl : (f (s.br b)).port.link = (s.br b).port.link) (hp : (s.br b).port.Lawful → (f (s.br b)).port.Lawful) :
    (s.updBr b f).BranchesLawful := by
  refine h.updBr b f fun hb => ?_
  refine BranchUnit.Lawful.of_outline (u := { s.br b with port := (f (s.br b)).port }) ?_ hf
  exact (BranchUnit.lawful_iff _ _).2 ⟨hb.linkLaw.withPort rfl hl (hp hb.linkLaw.port) rfl rfl,
    hb.orderLaw.congr rfl rfl rfl, hb.enumLaw.congr rfl rfl rfl, hb.inRange⟩

/-- A change of the records and of the enumeration (R97). -/
theorem State.BranchesLawful.reenumerate (h : s.BranchesLawful) (b : Branch) (f : BranchUnit → BranchUnit)
    (hf : (f (s.br b)).outline =
      { s.br b with records := (f (s.br b)).records, enumeration := (f (s.br b)).enumeration }.outline)
    (he : (s.br b).EnumLaw → (f (s.br b)).EnumLaw) : (s.updBr b f).BranchesLawful := by
  refine h.updBr b f fun hb => ?_
  simp only [BranchUnit.outline, Prod.mk.injEq] at hf
  obtain ⟨hs, ho, hc, -, -, hp, hcr, hu⟩ := hf
  exact (BranchUnit.lawful_iff _ _).2 ⟨hb.linkLaw.congr hs hp hcr hu, hb.orderLaw.congr hs ho hu, he hb.enumLaw,
    hc ▸ hb.inRange⟩

/-- A plain frame handed to a branch that is not to sleep or to wake (R50). -/
theorem State.BranchesLawful.hand (h : s.BranchesLawful) (b : Branch) {f : BranchFrame} (hf : f.Plain)
    (awake : (s.br b).sleepy = false) : (s.hand b f).BranchesLawful := by
  refine h.updBr b _ fun hb => ?_
  split
  · rename_i hup
    refine (BranchUnit.lawful_iff _ _).2 ⟨?_, hb.orderLaw.hand hf awake rfl rfl rfl, hb.enumLaw.congr rfl rfl rfl, hb.inRange⟩
    exact hb.linkLaw.reorder hup rfl rfl hb.linkLaw.credit fun hs => absurd hs (by simp [awake])
  · exact hb

theorem BranchUnit.sleepy_of_awake {u : BranchUnit} (h : u.state = .active ∨ u.state = .draining) : u.sleepy = false := by
  rcases h with h | h <;> simp [BranchUnit.sleepy, h]

/-! ### The port of a branch (R182, R187, R199) -/

theorem LinkPort.Lawful.goodFrame {p : LinkPort} (h : p.Lawful) : p.goodFrame.Lawful := by
  unfold LinkPort.goodFrame
  split
  · exact ⟨h.1, h.2.1, Nat.zero_lt_succ 2⟩
  · exact h

theorem State.BranchesLawful.goodFrameOn (h : s.BranchesLawful) (b : Branch) : (s.goodFrameOn b).BranchesLawful :=
  h.withPort b _ rfl (LinkPort.goodFrame_link _) fun hp => hp.goodFrame

theorem State.BranchesLawful.discardOn (h : s.BranchesLawful) (b : Branch) : (s.discardOn b).BranchesLawful :=
  h.withPort b _ rfl rfl id

theorem State.BranchesLawful.countBad (h : s.BranchesLawful) (p : Port) : (s.updPort p LinkPort.countBad).BranchesLawful := by
  cases p with
  | u => exact h
  | branch b => exact h.withPort b (fun u => { u with port := u.port.countBad }) rfl rfl id

/-- A CREDIT taken in UP leaves the transmit credit within its bound (R192). -/
theorem State.BranchesLawful.receiveCredit (h : s.BranchesLawful) (b : Branch) (n : Byte)
    (hup : (s.br b).port.link = .up) : (s.receiveCredit b n).BranchesLawful := by
  unfold State.receiveCredit
  dsimp only
  split
  · refine h.updBr b _ fun hb => ?_
    split
    · refine (BranchUnit.lawful_iff _ _).2 ⟨?_, hb.orderLaw.congr rfl rfl rfl, hb.enumLaw.congr rfl rfl rfl, hb.inRange⟩
      refine BranchUnit.LinkLaw.withPort (u := { s.br b with credit := Config.creditMax }) ?_ rfl rfl hb.linkLaw.port rfl rfl
      exact hb.linkLaw.reorder hup rfl rfl (le_refl _) fun _ => rfl
    · rename_i hle
      refine (BranchUnit.lawful_iff _ _).2 ⟨?_, hb.orderLaw.congr rfl rfl rfl, hb.enumLaw.congr rfl rfl rfl, hb.inRange⟩
      exact hb.linkLaw.reorder hup rfl rfl (Nat.not_lt.1 hle) fun _ => rfl
  · exact h.discardOn b

end

end Sys2Proof.Machine

namespace Sys2Proof.Machine

open Sys2Proof

/-! ### What the owners accept (R98, R110, R128) -/

theorem State.commandAccepted_enumerate (s : State) (b : Branch) :
    s.commandAccepted (.enumerate b) = true ↔ (s.br b).state = .active ∧ (s.br b).enumeration = .idle := by
  simp [State.commandAccepted, BranchUnit.enumerating]

theorem State.commandAccepted_dormant (s : State) (b : Branch) : s.commandAccepted (.dormant b) = true ↔
    (s.br b).state = .active ∧ (s.br b).clearOwed = false ∧ (s.br b).enumeration = .idle := by
  simp [State.commandAccepted, BranchUnit.enumerating, and_assoc]

section

variable {s : State} {b : Branch} {p : Position}

theorem State.commandAccepted_release_assigned {m : Member} {base : Word} (hr : s.record b p = .assigned m base) :
    s.commandAccepted (.release b p) = true ↔ (s.br b).state = .active ∨ (s.br b).state = .draining := by
  simp [State.commandAccepted, hr]

theorem State.commandAccepted_release_known (hr : (∃ m base, s.record b p = .lost m base) ∨ ∃ m, s.record b p = .unplaced m) :
    s.commandAccepted (.release b p) = true := by
  rcases hr with ⟨m, base, hr⟩ | ⟨m, hr⟩ <;> simp [State.commandAccepted, hr]

theorem State.commandAccepted_release_unknown
    (hr : s.record b p = .vacant ∨ ∃ m base, s.record b p = .identified m base) :
    s.commandAccepted (.release b p) = false := by
  rcases hr with hr | ⟨m, base, hr⟩ <;> simp [State.commandAccepted, hr]

end

section

variable {s : State}

/-! ### The drain (R128 to R130) -/

/-- The branch as it goes to sleep, with HUSH handed as its last frame where the link is UP (R130). -/
def BranchUnit.asleep (u : BranchUnit) : BranchUnit :=
  { u with
    state := .dormant
    unsent := u.unsent ++ if u.port.link = .up then [.hush] else [] }

theorem BranchUnit.Lawful.asleep {pin : Bool} {u : BranchUnit} (h : u.Lawful pin) (hs : u.state = .draining) :
    u.asleep.Lawful pin := by
  have link := h.linkLaw
  have order := h.orderLaw
  have noHush := order.no_hush (by simp [BranchUnit.sleepy, hs])
  have noClear := order.no_clear (.inl (by simp [hs]))
  have owesNone := order.drainingOwesNone hs
  refine (BranchUnit.lawful_iff _ _).2 ⟨?_, ?_, h.enumLaw.restate (h.enumLaw.idle (by simp [hs])) rfl rfl, h.inRange⟩
  · by_cases hup : u.port.link = .up
    · obtain rfl := h.pin_of_link (by simp [hup])
      exact ⟨link.port, by simp [BranchUnit.asleep, BranchUnit.linkInStep, BranchUnit.hushing, hup],
        fun hn => absurd hup hn, link.credit⟩
    · have hpin : pin = true := by
        cases pin with
        | true => rfl
        | false => exact absurd (h.link_of_awake (.inr hs)) hup
      subst hpin
      obtain ⟨credit, unsent⟩ := link.idle hup
      exact ⟨link.port, link.inStep, fun _ => ⟨credit, by simp [BranchUnit.asleep, hup, unsent]⟩, link.credit⟩
  · by_cases hup : u.port.link = .up
    · have unsent : u.asleep.unsent = u.unsent ++ [.hush] := by simp [BranchUnit.asleep, hup]
      have waits : u.asleep.clearWaits = u.clearWaits := by simp [BranchUnit.clearWaits, unsent]
      refine ⟨fun _ => rfl, by simpa [unsent] using noHush, ?_, fun hw => ?_, nofun, nofun, nofun, fun _ => owesNone⟩
      · simpa [unsent, List.count_append] using order.oneClear
      · exact absurd (waits ▸ hw) (by simp [noClear])
    · obtain ⟨-, unsent⟩ := link.idle hup
      exact .of_empty (by simp [BranchUnit.asleep, hup, unsent]) nofun nofun nofun fun _ => owesNone

theorem State.outline_completeDrain (s : State) (b : Branch) :
    (s.completeDrain b).outline = (s.setBr b (s.br b).asleep).outline := by
  rw [State.completeDrain, State.hand_eq, State.freeEntries_br, State.br_updBr]
  refine (State.outline_setBr (State.outline_freeEntries _ b) b rfl).trans ?_
  rw [State.updBr_eq, State.setBr_setBr]
  exact State.outline_setBr rfl b rfl

theorem State.BranchesLawful.judgeDrain (h : s.BranchesLawful) (b : Branch) : (s.judgeDrain b).BranchesLawful := by
  unfold State.judgeDrain
  split
  · rename_i hd
    obtain ⟨hs, -, -⟩ := hd
    exact h.of_setBr (s.outline_completeDrain b) fun hb => hb.asleep hs
  · exact h

/-- An accepted DORMANT (R128). -/
theorem State.BranchesLawful.beginDrain (h : s.BranchesLawful) (b : Branch)
    (ha : s.commandAccepted (.dormant b) = true) : (s.beginDrain b).BranchesLawful := by
  obtain ⟨hs, ho, hi⟩ := (s.commandAccepted_dormant b).1 ha
  refine State.BranchesLawful.judgeDrain (h.updBr b _ fun hb => ?_) b
  have order := hb.orderLaw
  have link := hb.linkLaw
  have noClear := order.no_clear (.inr ho)
  have noHush := order.no_hush (by simp [BranchUnit.sleepy, hs])
  refine (BranchUnit.lawful_iff _ _).2 ⟨⟨link.port, ?_, link.idle, link.credit⟩, ?_, hb.enumLaw.restate hi rfl rfl, hb.inRange⟩
  · simpa [BranchUnit.linkInStep, hs] using link.inStep
  · exact ⟨fun hm => absurd hm noHush, order.hushLast, order.oneClear, fun hw => absurd (hw.symm.trans noClear) nofun, nofun,
      nofun, fun _ => ho, nofun⟩

/-! ### Issue and aging (R44 to R53) -/

theorem State.BranchesLawful.sendHead (h : s.BranchesLawful) (b : Branch) {f : BranchFrame} (hf : f.Plain)
    (hm : (s.br b).mayIssue = true) : (s.sendHead b f).BranchesLawful := by
  obtain ⟨awake, hup, -, -⟩ := (BranchUnit.mayIssue_iff _).1 hm
  have popped : (s.popSlot b).BranchesLawful := h.of_outline (s.outline_popSlot b)
  have unit : (s.popSlot b).br b = { s.br b with queue := (s.br b).queue.tail } := State.br_updBr s b _
  refine State.BranchesLawful.hand (popped.updBr b _ fun hb => ?_) b hf ?_
  · refine (BranchUnit.lawful_iff _ _).2 ⟨?_, hb.orderLaw.congr rfl rfl rfl, hb.enumLaw.congr rfl rfl rfl, hb.inRange⟩
    refine hb.linkLaw.reorder (by rw [unit]; exact hup) rfl rfl ?_ fun _ => rfl
    exact (Nat.sub_le _ 1).trans hb.linkLaw.credit
  · rw [State.br_updBr, unit]
    exact BranchUnit.sleepy_of_awake awake

theorem State.BranchesLawful.failRecheck (h : s.BranchesLawful) (b : Branch) (q : Slot) :
    (s.failRecheck b q).BranchesLawful := by
  refine State.BranchesLawful.judgeDrain (h.of_outline ?_) b
  rw [State.outline_answer, State.outline_updBr _ b _ rfl, State.outline_popSlot]

theorem State.BranchesLawful.issueHead (h : s.BranchesLawful) (b : Branch) : (s.issueHead b).BranchesLawful := by
  by_cases hm : (s.br b).mayIssue = true
  · cases hq : (s.br b).queue with
    | nil => rw [State.issueHead, hq]; exact h
    | cons q rest =>
      cases hh : q.hdr with
      | post =>
        rw [State.issueHead_post hq hm hh]
        split
        · exact (h.sendHead b (f := .post q.addr q.count q.data) ⟨nofun, nofun, nofun⟩ hm).judgeDrain b
        · exact h.failRecheck b q
      | tagged k ut =>
        cases hroom : s.issueRoom b with
        | none => rw [State.issueHead_tagged_none hq hm hh hroom]; exact h
        | some room =>
          rw [State.issueHead_tagged_some hq hm hh hroom]
          split
          · exact State.BranchesLawful.sendHead (h.of_outline (s.outline_setEntry _ _)) b ⟨nofun, nofun, nofun⟩ hm
          · exact h.failRecheck b q
  · rw [State.issueHead_of_not_mayIssue (by simpa using hm)]
    exact h

theorem State.BranchesLawful.ageSlots (h : s.BranchesLawful) (b : Branch) : (s.ageSlots b).BranchesLawful := by
  refine State.BranchesLawful.judgeDrain (h.of_outline ?_) b
  rw [State.outline_answerAll]
  exact s.outline_updBr b _ rfl

/-! ### The tracker (R65 to R71) -/

theorem State.outline_passUpward (s : State) (c : Carried) (ut : UTag) (status detail : Byte) (data : List Word) :
    (s.passUpward c ut status detail data).outline = s.outline := by
  unfold State.passUpward
  split
  · exact s.outline_placeReply _ _ _ _
  · exact (State.outline_placeReply _ _ _ _ _).trans rfl

theorem State.BranchesLawful.takeReply (h : s.BranchesLawful) (b : Branch) (tag : UTag) (status detail : Byte)
    (data : List Word) : (s.takeReply b tag status detail data).BranchesLawful := by
  unfold State.takeReply
  split
  · exact h.of_outline rfl
  · split
    · exact h
    · exact State.BranchesLawful.judgeDrain (h.of_outline ((State.outline_passUpward _ _ _ _ _ _).trans (s.outline_setEntry _ _))) b
    · exact h.of_outline rfl

theorem State.BranchesLawful.replyTimedOut (h : s.BranchesLawful) (e : EntryIx) (c : Carried) (ut : UTag) :
    (s.replyTimedOut e c ut).BranchesLawful := by
  refine State.BranchesLawful.judgeDrain (h.of_outline ?_) c.branch
  rw [State.outline_placeReply]
  rfl

end

end Sys2Proof.Machine

namespace Sys2Proof.Machine

open Sys2Proof

section

variable {s : State}

/-! ### The steps of an enumeration (R98 to R106) -/

/-- IDENTIFY is handed on an ACTIVE branch none of whose records is IDENTIFIED (R100). -/
theorem State.BranchesLawful.beginStep (h : s.BranchesLawful) (b : Branch) (hs : (s.br b).state = .active)
    (hw : (s.br b).workingPosition = none) : (s.beginStep b).BranchesLawful := by
  refine State.BranchesLawful.hand (h.reenumerate b _ rfl fun he => ?_) b ⟨nofun, nofun, nofun⟩ ?_
  · exact .of_identify rfl hs (he.none_identified hw)
  · rw [State.br_updBr]
    exact BranchUnit.sleepy_of_awake (.inl hs)

theorem State.BranchesLawful.startEnumeration (h : s.BranchesLawful) (b : Branch) (hs : (s.br b).state = .active)
    (hi : (s.br b).enumeration = .idle) : (s.startEnumeration b).BranchesLawful := by
  refine State.BranchesLawful.beginStep (h.of_outline (s.outline_updBr b _ rfl)) b ?_ ?_
  · rw [State.br_updBr]; exact hs
  · rw [State.br_updBr, BranchUnit.workingPosition, hi]

/-- A record at the working position of an enumeration, if it has one, is replaced by one that is not IDENTIFIED, and the
enumeration ends (R103, R105, R106). -/
theorem State.BranchesLawful.endAt (h : s.BranchesLawful) (b : Branch) (p : Position) (r : Record) (o : EnumOutcome)
    (hr : r.isIdentified = false) (hw : ∀ q, (s.br b).workingPosition = some q → q = p) :
    ((s.setRecord b p r).endEnumeration b o).BranchesLawful := by
  refine State.BranchesLawful.of_outline ?_ (State.outline_raise _ _)
  rw [State.stopEnumeration, State.setRecord, State.updBr_updBr]
  refine h.reenumerate b _ rfl fun he => .of_idle rfl fun q => ?_
  dsimp only
  rw [records_set_get]
  split
  · exact hr
  · rename_i hq
    cases hi : ((s.br b).records[q]).isIdentified with
    | false => rfl
    | true => exact absurd (hw q ((he.working q).1 hi)) hq

/-- The enumeration ends outside an assign phase (R106). -/
theorem State.BranchesLawful.endEnumeration (h : s.BranchesLawful) (b : Branch) (o : EnumOutcome)
    (hw : (s.br b).workingPosition = none) : (s.endEnumeration b o).BranchesLawful :=
  State.BranchesLawful.of_outline
    (h.reenumerate b (fun u => { u with enumeration := .idle, outcome := o }) rfl fun he =>
      .of_idle rfl (he.none_identified hw))
    (State.outline_raise _ _)

/-- An ASSIGN is handed: the record of its position is the IDENTIFIED one, and the assign phase works there (R102). -/
theorem State.BranchesLawful.assignRange (h : s.BranchesLawful) (b : Branch) (p : Position) (m : Member) (base : Word)
    (hs : (s.br b).state = .active) (hw : (s.br b).workingPosition = none) : (s.assignRange b p m base).BranchesLawful := by
  rw [State.assignRange, State.setRecord, State.updBr_updBr]
  refine State.BranchesLawful.hand (h.reenumerate b _ rfl fun he => ⟨fun _ => hs, fun q => ?_⟩) b ⟨nofun, nofun, nofun⟩ ?_
  · dsimp only
    rw [records_set_get]
    by_cases hq : q = p
    · subst hq
      simp [Record.isIdentified, BranchUnit.workingPosition]
    · simpa [hq, BranchUnit.workingPosition, Ne.symm hq] using he.none_identified hw q
  · rw [State.br_updBr]
    exact BranchUnit.sleepy_of_awake (.inl hs)

theorem State.BranchesLawful.placeMember (h : s.BranchesLawful) (b : Branch) (p : Position) (m : Member)
    (hs : (s.br b).state = .active) (hw : (s.br b).workingPosition = none) : (s.placeMember b p m).BranchesLawful := by
  unfold State.placeMember
  split
  · exact h.assignRange b p m _ hs hw
  · exact h.endAt b p _ _ rfl fun q hq => absurd (hw.symm.trans hq) nofun

theorem State.BranchesLawful.takeDescriptorAt (h : s.BranchesLawful) (b : Branch) (p : Position) (m : Member)
    (hs : (s.br b).state = .active) (hw : (s.br b).workingPosition = none) :
    (s.takeDescriptorAt b p m).BranchesLawful := by
  unfold State.takeDescriptorAt
  cases s.record b p with
  | assigned => exact h.endEnumeration b _ hw
  | vacant | identified | unplaced => exact h.placeMember b p m hs hw
  | lost old range =>
    dsimp only
    split
    · refine State.BranchesLawful.assignRange (h.of_outline (s.outline_updBr b _ rfl)) b p m _ ?_ ?_
      · rw [State.br_updBr]; exact hs
      · rw [State.br_updBr]; exact hw
    · exact h.placeMember b p m hs hw

/-- An enumeration runs on an ACTIVE branch alone (R97). -/
theorem State.BranchesLawful.active_of_running (h : s.BranchesLawful) {b : Branch} {phase : EnumPhase} {d : Time}
    (he : (s.br b).enumeration = .running phase d) : (s.br b).state = .active :=
  (h b).enumLaw.active (by simp [BranchUnit.enumerating, he])

theorem State.BranchesLawful.countUnexpected (h : s.BranchesLawful) (b : Branch) : (s.countUnexpected b).BranchesLawful :=
  h.of_outline (s.outline_countUnexpected b)

theorem State.BranchesLawful.takeDescriptor (h : s.BranchesLawful) (b : Branch) (m : Member) (hop : Byte) :
    (s.takeDescriptor b m hop).BranchesLawful := by
  unfold State.takeDescriptor
  split
  · rename_i d he
    have none : (s.br b).workingPosition = none := by rw [BranchUnit.workingPosition, he]
    split
    · exact h.endEnumeration b _ none
    · exact h.takeDescriptorAt b _ m (h.active_of_running he) none
  · exact h.countUnexpected b
  · exact h.countUnexpected b

theorem Record.assign_isIdentified (r : Record) : r.assign.isIdentified = false := by
  cases r <;> rfl

theorem State.BranchesLawful.takeAssigned (h : s.BranchesLawful) (b : Branch) (hop : Byte) :
    (s.takeAssigned b hop).BranchesLawful := by
  unfold State.takeAssigned
  split
  · rename_i p d he
    have works : (s.br b).workingPosition = some p := by rw [BranchUnit.workingPosition, he]
    split
    · rw [State.beginStep, State.setRecord, State.updBr_updBr, State.updBr_updBr]
      have active := h.active_of_running he
      refine State.BranchesLawful.hand (h.reenumerate b _ rfl fun law => .of_identify rfl active fun q => ?_) b
        ⟨nofun, nofun, nofun⟩ ?_
      · dsimp only
        rw [records_set_get]
        split
        · exact Record.assign_isIdentified _
        · rename_i hq
          cases hi : ((s.br b).records[q]).isIdentified with
          | false => rfl
          | true => exact absurd (Option.some.inj (((law.working q).1 hi).symm.trans works)) hq
      · rw [State.br_updBr]
        exact BranchUnit.sleepy_of_awake (.inl active)
    · exact h.endAt b p _ _ rfl fun q hq => Option.some.inj (hq.symm.trans works)
  · exact h.countUnexpected b
  · exact h.countUnexpected b

theorem State.BranchesLawful.takeEmpty (h : s.BranchesLawful) (b : Branch) : (s.takeEmpty b).BranchesLawful := by
  unfold State.takeEmpty
  split
  · rename_i d he
    exact h.endEnumeration b _ (by rw [BranchUnit.workingPosition, he])
  · exact h.countUnexpected b
  · exact h.countUnexpected b

theorem State.BranchesLawful.runOut (h : s.BranchesLawful) (d : Time) (act : State → State)
    (ha : (s.advanceTo d).BranchesLawful → (act (s.advanceTo d)).BranchesLawful) : (s.runOut d act).BranchesLawful := by
  unfold State.runOut
  split
  · exact ha (h.of_outline rfl)
  · exact h

theorem State.BranchesLawful.identifyTimeout (h : s.BranchesLawful) (b : Branch) : (s.identifyTimeout b).BranchesLawful := by
  unfold State.identifyTimeout
  split
  · rename_i d he
    refine h.runOut d _ fun g => g.endEnumeration b _ ?_
    rw [State.advanceTo_br, BranchUnit.workingPosition, he]
  · rename_i p d he
    refine h.runOut d _ fun g => g.endAt b p _ _ rfl fun q hq => ?_
    rw [State.advanceTo_br, BranchUnit.workingPosition, he] at hq
    exact (Option.some.inj hq).symm
  · exact h

theorem State.BranchesLawful.takeMend (h : s.BranchesLawful) (b : Branch) : (s.takeMend b).BranchesLawful := by
  have raised : (State.raise (.chain b)
      (s.updBr b fun v => { v with chain := { v.chain with mends := v.chain.mends + 1 } })).outline = s.outline :=
    (State.outline_raise _ _).trans (s.outline_updBr b _ rfl)
  unfold State.takeMend
  dsimp only
  split
  · rename_i hc
    obtain ⟨-, hs, hi⟩ := hc
    have unit := State.br_of_branches (State.raise_branches
      (s.updBr b fun v => { v with chain := { v.chain with mends := v.chain.mends + 1 } }) (.chain b)) b
    rw [State.br_updBr] at unit
    exact State.BranchesLawful.startEnumeration (h.of_outline raised) b (by rw [unit]; exact hs) (by rw [unit]; exact hi)
  · exact h.of_outline raised

/-! ### A chain break (R112, R113) -/

/-- A break that reaches the working position makes the record there LOST and ends the enumeration; one beyond it leaves both
(R113). -/
theorem BranchUnit.EnumLaw.broken {u : BranchUnit} (h : u.EnumLaw) (k : Nat) : (u.broken k).EnumLaw := by
  rw [BranchUnit.broken_eq]
  have lost : ∀ p : Position, (u.records[p]).isIdentified = true → u.breakLoses k p = decide (k < p.val) := fun p hi => by
    have works := (h.working p).1 hi
    cases hr : u.records[p] <;> simp_all [Record.isIdentified, BranchUnit.breakLoses]
  by_cases he : u.breakEnds k = true
  · refine .of_idle (by simp [he]) fun p => ?_
    rw [mapTable_get]
    split
    · exact Record.lose_isIdentified _
    · rename_i hp
      cases hi : (u.records[p]).isIdentified with
      | false => rfl
      | true =>
        rw [BranchUnit.breakEnds_eq, (h.working p).1 hi] at he
        exact absurd ((lost p hi).trans he) hp
  · refine BranchUnit.EnumLaw.congr (u := { u with
        records := mapTable (fun p r => if u.breakLoses k p then r.lose else r) u.records }) ⟨h.active, fun p => ?_⟩
      rfl rfl (by simp [he])
    rw [mapTable_get]
    split
    · rename_i hp
      have none : (u.records[p]).isIdentified = false := by
        cases hi : (u.records[p]).isIdentified with
        | false => rfl
        | true =>
          rw [BranchUnit.breakEnds_eq, (h.working p).1 hi] at he
          exact absurd ((lost p hi).symm.trans hp) he
      rw [Record.lose_isIdentified, ← none]
      exact h.working p
    · exact h.working p

theorem State.BranchesLawful.takeBreak (h : s.BranchesLawful) (b : Branch) (k : Nat) :
    (s.takeBreak b k).BranchesLawful := by
  rw [State.takeBreak_broken]
  refine State.BranchesLawful.judgeDrain (State.BranchesLawful.of_outline ?_ (State.outline_branchEvent _ _ _ _ _ _ _)) b
  refine State.BranchesLawful.of_outline (h.reenumerate b (BranchUnit.broken k) rfl fun he => he.broken k) ?_
  exact State.outline_setBr rfl b rfl

end

end Sys2Proof.Machine

namespace Sys2Proof.Machine

open Sys2Proof

/-! ### Ports that train, go OFF, go QUIET or enter UP -/

theorem LinkPort.train_lawful (t : Time) (p : LinkPort) : (p.train t).Lawful :=
  ⟨iff_of_true rfl rfl, nofun, Nat.zero_lt_succ 2⟩

theorem LinkPort.goOff_lawful (p : LinkPort) : p.goOff.Lawful :=
  ⟨iff_of_false nofun nofun, nofun, Nat.zero_lt_succ 2⟩

theorem LinkPort.goQuiet_lawful (p : LinkPort) : p.goQuiet.Lawful :=
  ⟨iff_of_false nofun nofun, nofun, Nat.zero_lt_succ 2⟩

theorem LinkPort.goUp_lawful (p : LinkPort) : p.goUp.Lawful :=
  ⟨iff_of_false nofun nofun, nofun, Nat.zero_lt_succ 2⟩

/-- A port that is made to train does so, unless RESET holds it OFF (R175). -/
theorem State.trained_lawful (s : State) (p : LinkPort) : (s.trained p).Lawful := by
  unfold State.trained
  split
  · exact p.goOff_lawful
  · exact p.train_lawful _

theorem State.trained_link_eq (s : State) (p : LinkPort) :
    (s.trained p).link = if s.resetPin then .off else .training := by
  unfold State.trained
  split <;> rfl

section

variable {pin : Bool} {u v : BranchUnit}

/-- A branch whose port has just been made to train, with nothing in it, is in step with it where it is DOWN or WAKING (R124). -/
theorem BranchUnit.LinkLaw.of_trained {s : State} {p : LinkPort} (hp : v.port = s.trained p) (hc : v.credit = 0)
    (hu : v.unsent = []) (hs : v.state = .down ∨ ∃ d, v.state = .waking d) : v.LinkLaw s.resetPin := by
  have link := s.trained_link_eq p
  refine ⟨hp ▸ s.trained_lawful p, ?_, fun _ => ⟨hc, hu⟩, hc ▸ Nat.zero_le _⟩
  cases hpin : s.resetPin <;> rcases hs with hs | ⟨d, hs⟩ <;>
    simp [BranchUnit.linkInStep, hp, hs, link, hpin]

/-- An ended enumeration leaves no record IDENTIFIED where every record has been made LOST. -/
theorem BranchUnit.EnumLaw.of_lost {rs : Vector Record 8} (hr : v.records = mapTable (fun _ r => r.lose) rs)
    (he : v.enumeration = .idle) : v.EnumLaw :=
  .of_idle he fun p => by rw [hr, mapTable_get]; exact Record.lose_isIdentified _

/-! ### The entry into WAKING (R132 to R136) -/

/-- The branch as it enters WAKING: its port trains, unless it is UP, where a HUSH still waits (R136, R195). -/
def BranchUnit.woken (s : State) (u : BranchUnit) : BranchUnit :=
  { u with
    state := .waking (s.now + Config.wakeTimer)
    port := if u.port.link = .up then u.port else s.trained u.port
    credit := if u.port.link = .up then u.credit else 0 }

/-- A DORMANT branch is QUIET or hushing and a FAILED one is OFF, so that what wakes is in step (R124). -/
theorem BranchUnit.LinkLaw.woken {s : State} (h : u.LinkLaw s.resetPin) (hs : u.state = .dormant ∨ u.state = .failed) :
    (u.woken s).LinkLaw s.resetPin := by
  by_cases hup : u.port.link = .up
  · have step := h.inStep
    refine ⟨by simpa [BranchUnit.woken, hup] using h.port, ?_, fun hn => ?_, by simpa [BranchUnit.woken, hup] using h.credit⟩
    · cases hpin : s.resetPin <;> rcases hs with hs | hs <;>
        simp_all [BranchUnit.linkInStep, BranchUnit.woken, BranchUnit.hushing]
    · simp [BranchUnit.woken, hup] at hn
  · exact .of_trained (if_neg hup) (if_neg hup) (h.idle hup).2 (.inr ⟨_, rfl⟩)

/-- Nothing is asked of what a WAKING branch owes, and no CLEAR waits in its port (R127). -/
theorem BranchUnit.OrderLaw.waking {d : Time} (h : u.OrderLaw pin) (hn : u.clearWaits = false) (hs : v.state = .waking d)
    (hu : v.unsent = u.unsent) : v.OrderLaw pin where
  hushSleeps _ := by simp [BranchUnit.sleepy, hs]
  hushLast := hu ▸ h.hushLast
  oneClear := hu ▸ h.oneClear
  clearIsOwed hw := absurd hw (by simp [BranchUnit.clearWaits, hu] at hn ⊢; exact hn)
  owedWaits _ ha := absurd (hs.symm.trans ha) nofun
  downOwes ha := absurd (hs.symm.trans ha) nofun
  drainingOwesNone ha := absurd (hs.symm.trans ha) nofun
  dormantOwesNone ha := absurd (hs.symm.trans ha) nofun

theorem State.outline_enterWaking (s : State) (b : Branch) :
    (s.enterWaking b).outline = (s.setBr b ((s.br b).woken s)).outline := by
  rw [State.enterWaking_eq]
  exact State.outline_setBr rfl b rfl

end

section

variable {s : State}

theorem State.BranchesLawful.enterWaking (h : s.BranchesLawful) (b : Branch)
    (hs : (s.br b).state = .dormant ∨ (s.br b).state = .failed) : (s.enterWaking b).BranchesLawful := by
  have active : (s.br b).state ≠ .active := by rcases hs with hs | hs <;> simp [hs]
  refine h.of_setBr (s.outline_enterWaking b) fun hb => (BranchUnit.lawful_iff _ _).2 ⟨hb.linkLaw.woken hs, ?_, ?_, hb.inRange⟩
  · exact hb.orderLaw.waking (hb.orderLaw.no_clear (.inl active)) rfl rfl
  · exact hb.enumLaw.restate (hb.enumLaw.idle active) rfl rfl

/-- A wake by neighbour is taken on a QUIET link, which is that of a DORMANT branch (R134, R196). -/
theorem State.BranchesLawful.wakeByNeighbour (h : s.BranchesLawful) (b : Branch) (hq : (s.br b).port.link = .quiet) :
    (s.wakeByNeighbour b).BranchesLawful := by
  unfold State.wakeByNeighbour
  split
  · refine State.BranchesLawful.of_outline (h.withPort b _ rfl rfl fun hp => ?_) (State.outline_raise _ _)
    exact ⟨hp.1, fun _ => hq, hp.2.2⟩
  · refine State.BranchesLawful.enterWaking (h.of_outline (s.outline_updBr b _ rfl)) b ?_
    rw [State.br_updBr]
    exact .inl (h.quietSleeps b hq)

/-- A branch link that enters UP is that of a DOWN or WAKING branch, which has nothing unsent (R125, R127, R137). -/
theorem State.BranchesLawful.branchEntersUp (h : s.BranchesLawful) (b : Branch) (ht : (s.br b).port.link = .training) :
    (s.branchEntersUp b).BranchesLawful := by
  have hs := (h b).state_of_training ht
  have hpin := (h b).pin_of_link (by simp [ht])
  have active : (s.br b).state ≠ .active := by rcases hs with hs | ⟨d, hs⟩ <;> simp [hs]
  rw [State.branchEntersUp_eq hs]
  refine h.of_setBr rfl fun hb => ?_
  obtain ⟨-, unsent⟩ := hb.linkLaw.idle (by simp [ht])
  refine (BranchUnit.lawful_iff _ _).2 ⟨⟨LinkPort.goUp_lawful _, ?_, fun hn => absurd rfl hn, Nat.zero_le _⟩, ?_,
    hb.enumLaw.restate (hb.enumLaw.idle active) rfl rfl, hb.inRange⟩
  · simp [BranchUnit.linkInStep, hpin, LinkPort.goUp]
  · cases ho : (s.br b).clearOwed with
    | false => exact .of_empty (by simp [unsent]) (fun _ _ => ho) nofun nofun nofun
    | true =>
      constructor <;> simp [unsent, BranchUnit.clearWaits, ho]

/-! ### A port that leaves UP (R123, R126, R184) -/

/-- A branch that leaves UP loses its link, whatever its port held and had counted. -/
theorem State.branchLeavesUp_lawful (b : Branch) (hpin : s.resetPin = false) (hup : (s.br b).port.link = .up)
    (hh : (s.br b).hushWaits = false) (hs : (s.br b).state = .active ∨ (s.br b).state = .draining)
    (others : ∀ c, c ≠ b → (s.br c).Lawful false) (range : (s.br b).config.inRange = true) :
    (s.branchLeavesUp b).BranchesLawful := by
  have leaves : s.branchLeavesUp b = s.departure (.branch b) := (if_pos ⟨hup, hh⟩).symm
  rw [leaves, State.departure_event hpin hup hh hs]
  refine State.BranchesLawful.of_outline (fun c => ?_) (State.outline_branchEvent _ _ _ _ _ _ _)
  show BranchUnit.Lawful s.resetPin _
  rw [hpin, State.emptiedAs, State.br_setBr_eq]
  split
  · refine (BranchUnit.lawful_iff _ _).2 ⟨⟨LinkPort.train_lawful _ _, rfl, fun _ => ⟨rfl, rfl⟩, Nat.zero_le _⟩, ?_, ?_, range⟩
    · exact .of_empty rfl nofun (fun _ => rfl) nofun nofun
    · exact .of_lost rfl rfl
  · rename_i hc
    exact others c hc

/-- A branch that starts afresh, DOWN and owing a CLEAR, with its port in TRAINING (R144). -/
theorem BranchUnit.Lawful.afresh {u : BranchUnit} (t : Time) {p : LinkPort} (hp : p.Lawful) (ht : p.link = .training) :
    { u.afterLinkReset t with port := p }.Lawful false :=
  (BranchUnit.lawful_iff _ _).2 ⟨⟨hp, by simp [BranchUnit.linkInStep, BranchUnit.afterLinkReset, ht], fun _ => ⟨rfl, rfl⟩,
    Nat.zero_le _⟩, .of_empty rfl nofun (fun _ => rfl) nofun nofun,
    .of_idle rfl fun p => by simp [BranchUnit.afterLinkReset, Record.isIdentified], rfl⟩

/-- A U link loss is a link reset, from which every branch starts afresh (R144, R172, R173). -/
theorem State.linkReset_lawful (hpin : s.resetPin = false) (h : s.BranchesLawful) : s.linkReset.BranchesLawful := by
  intro b
  show BranchUnit.Lawful s.resetPin _
  rw [State.linkReset_br, hpin]
  refine .afresh s.now (p := LinkPort.atReset s.now (s.br b).port) ?_ ?_
  · unfold LinkPort.atReset
    split
    · exact ⟨(h b).linkLaw.port.1, nofun, Nat.zero_lt_succ 2⟩
    · exact LinkPort.train_lawful _ _
  · unfold LinkPort.atReset
    split
    · rename_i ht; exact ht
    · rfl

theorem State.uLinkLoss_lawful (hpin : s.resetPin = false) (h : s.BranchesLawful) : s.uLinkLoss.BranchesLawful := by
  have counted : State.BranchesLawful { s with upstream := { s.upstream with linkLosses := s.upstream.linkLosses + 1 } } :=
    h.of_outline rfl
  exact (State.linkReset_lawful hpin counted).of_outline rfl

/-- RESET is not asserted while U is UP (R175). -/
def State.ResetHoldsU (s : State) : Prop :=
  s.u.port.link = .up → s.resetPin = false

theorem State.UpstreamLaw.resetHoldsU (h : s.UpstreamLaw) : s.ResetHoldsU := by
  obtain ⟨-, -, -, off, -⟩ := h
  intro hup
  cases hp : s.resetPin with
  | false => rfl
  | true => exact absurd (off.2 hp) (by simp [hup])

theorem State.BranchesLawful.departure (h : s.BranchesLawful) (hu : s.ResetHoldsU) (p : Port) :
    (s.departure p).BranchesLawful := by
  unfold State.departure
  split
  · rename_i hd
    obtain ⟨hup, hh⟩ := hd
    cases p with
    | u => exact State.uLinkLoss_lawful (hu hup) h
    | branch b =>
      have hpin := (h b).pin_of_link (fun e => nomatch hup.symm.trans e)
      exact State.branchLeavesUp_lawful b hpin hup hh ((h b).state_of_up hup hh) (fun c _ => hpin ▸ h c) (h b).inRange
  · exact h

/-- A bad frame is counted; the third in a row in UP, outside the HUSH window, takes the port out of UP (R187). -/
theorem State.BranchesLawful.receiveBad (h : s.BranchesLawful) (hu : s.ResetHoldsU) (p : Port) :
    (s.receiveBad p).BranchesLawful := by
  have counted := h.countBad p
  unfold State.receiveBad
  dsimp only
  split
  · rename_i hup
    split
    · exact counted
    · rename_i hh
      cases p with
      | u =>
        split
        · exact State.uLinkLoss_lawful (s := State.updPort .u _ (s.updPort .u _)) (hu hup) (h.of_outline rfl)
        · exact h.of_outline rfl
      | branch b =>
        have port : (s.br b).port.link = .up := hup
        have waits : (s.br b).hushWaits = false := by simpa [State.hushWindow] using hh
        have hpin := (h b).pin_of_link (by simp [port])
        simp only [State.updPort, State.updBr_updBr]
        split
        · refine State.branchLeavesUp_lawful b hpin ?_ ?_ ?_ (fun c hc => ?_) ?_
          · rw [State.br_updBr]; exact port
          · rw [State.br_updBr]; exact waits
          · rw [State.br_updBr]; exact (h b).state_of_up port waits
          · rw [State.br_updBr_ne _ _ hc]; exact hpin ▸ h c
          · rw [State.br_updBr]; exact (h b).inRange
        · rename_i hrun
          exact h.withPort b _ rfl rfl fun hp => ⟨hp.1, hp.2.1, Nat.not_le.1 hrun⟩
  · split
    · exact counted
    · exact h
  · exact counted
  · exact h

/-! ### A wake that fails (R138) -/

theorem State.BranchesLawful.wakeFails (h : s.BranchesLawful) (b : Branch) {d : Time} (hs : (s.br b).state = .waking d) :
    (s.wakeFails b).BranchesLawful := by
  rw [State.wakeFails_emptied]
  refine State.BranchesLawful.of_outline ?_ (State.outline_branchEvent _ _ _ _ _ _ _)
  refine h.of_setBr (State.outline_setBr rfl b rfl) fun hb => (BranchUnit.lawful_iff _ _).2 ⟨?_, ?_, ?_, hb.inRange⟩
  · refine ⟨LinkPort.goOff_lawful _, ?_, fun _ => ⟨rfl, rfl⟩, Nat.zero_le _⟩
    cases s.resetPin <;> rfl
  · exact .of_empty rfl nofun nofun nofun nofun
  · exact .of_lost rfl (hb.enumLaw.idle (by simp [hs]))

/-! ### The frames that a branch port sends (R127, R191, R194) -/

/-- A CLEAR has been sent (R99, R127). -/
theorem State.BranchesLawful.clearSent (h : s.BranchesLawful) (b : Branch) {f : BranchFrame} {rest : List BranchFrame}
    (hf : f = .clear ∨ f = .resetClear) (hq : (s.br b).unsent = f :: rest) (hup : (s.br b).port.link = .up) :
    (State.clearSent b (s.updBr b fun u => { u with unsent := rest })).BranchesLawful := by
  have active : (s.br b).state = .active := by
    refine ((h b).orderLaw.clearIsOwed ?_).1
    rw [BranchUnit.clearWaits_iff, hq]
    rcases hf with rfl | rfl <;> simp
  have sent : State.BranchesLawful ((s.updBr b fun u => { u with unsent := rest }).updBr b fun v =>
      { v with clearOwed := v.clearOwed && v.clearWaits }) := by
    rw [State.updBr_updBr]
    refine h.updBr b _ fun hb => (BranchUnit.lawful_iff _ _).2 ⟨?_, hb.orderLaw.popClear hf hq rfl rfl rfl,
      hb.enumLaw.congr rfl rfl rfl, hb.inRange⟩
    exact (hb.linkLaw.reorder (v := { s.br b with unsent := rest }) hup rfl rfl hb.linkLaw.credit fun hs =>
      absurd hs (by simp [BranchUnit.sleepy, active])).congr rfl rfl rfl rfl
  unfold State.clearSent
  dsimp only
  split
  · rename_i hc
    obtain ⟨-, hi⟩ := hc
    rw [State.br_updBr] at hi
    refine sent.startEnumeration b ?_ ?_
    · rw [State.br_updBr, State.br_updBr]; exact active
    · rw [State.br_updBr, State.br_updBr]; exact hi
  · exact sent

/-- The HUSH has been sent: it was the last frame, of a branch that sleeps or is to wake (R194, R195). -/
theorem State.BranchesLawful.hushSent (h : s.BranchesLawful) (b : Branch) {rest : List BranchFrame}
    (hq : (s.br b).unsent = .hush :: rest) (hup : (s.br b).port.link = .up) :
    (State.afterHush b (s.updBr b fun u => { u with unsent := rest })).BranchesLawful := by
  have hpin := (h b).pin_of_link (by simp [hup])
  have order := (h b).orderLaw
  have sleeps := order.hushSleeps (by simp [hq])
  have alone : rest = [] := by
    cases rest with
    | nil => rfl
    | cons f rest => exact absurd (by simp [hq]) order.hushLast
  subst alone
  have awake : (s.br b).state ≠ .active := fun hs => by simp [BranchUnit.sleepy, hs] at sleeps
  have idle := (h b).enumLaw.idle awake
  unfold State.afterHush
  rw [State.br_updBr]
  dsimp only
  cases hs : (s.br b).state with
  | waking d =>
    dsimp only
    rw [State.trainBranch, State.updBr_updBr]
    refine h.updBr b _ fun hb => (BranchUnit.lawful_iff _ _).2 ⟨?_, ?_, hb.enumLaw.restate idle rfl rfl, hb.inRange⟩
    · exact .of_trained (s := s) rfl rfl rfl (.inr ⟨d, hs⟩)
    · exact .of_empty rfl (fun _ ha => absurd ha awake) (fun ha => absurd (hs.symm.trans ha) nofun)
        (fun ha => absurd (hs.symm.trans ha) nofun) fun ha => absurd (hs.symm.trans ha) nofun
  | dormant =>
    dsimp only
    rw [State.updBr_updBr]
    refine h.updBr b _ fun hb => (BranchUnit.lawful_iff _ _).2 ⟨?_, ?_, hb.enumLaw.restate idle rfl rfl, hb.inRange⟩
    · exact ⟨LinkPort.goQuiet_lawful _, by simp [BranchUnit.linkInStep, hpin, hs, LinkPort.goQuiet], fun _ => ⟨rfl, rfl⟩,
        Nat.zero_le _⟩
    · exact .of_empty rfl (fun _ ha => absurd ha awake) (fun ha => absurd (hs.symm.trans ha) nofun)
        (fun ha => absurd (hs.symm.trans ha) nofun) fun _ => order.dormantOwesNone hs
  | active | draining | down | failed => simp [BranchUnit.sleepy, hs] at sleeps

/-- A plain frame has been sent (R191). -/
theorem State.BranchesLawful.frameSent (h : s.BranchesLawful) (b : Branch) {f : BranchFrame} {rest : List BranchFrame}
    (hf : f.Plain) (hq : (s.br b).unsent = f :: rest) (hup : (s.br b).port.link = .up) :
    (s.updBr b fun u => { u with unsent := rest }).BranchesLawful := by
  have hpin := (h b).pin_of_link (by simp [hup])
  refine h.updBr b _ fun hb => (BranchUnit.lawful_iff _ _).2 ⟨?_, hb.orderLaw.pop hf hq rfl rfl rfl,
    hb.enumLaw.congr rfl rfl rfl, hb.inRange⟩
  refine hb.linkLaw.reorder hup rfl rfl hb.linkLaw.credit fun hs => ?_
  have step := hb.linkLaw.inStep
  have last : (s.br b).unsent.getLast? = some .hush := by
    cases hst : (s.br b).state <;> simp_all [BranchUnit.sleepy, BranchUnit.linkInStep, BranchUnit.hushing]
  rw [hq] at last ⊢
  cases rest with
  | nil => exact absurd (by simpa using last) hf.1
  | cons g rest => rfl

end

end Sys2Proof.Machine

namespace Sys2Proof.Machine

open Sys2Proof

section

variable {s : State}

/-! ### The BRANCH-RESET command (R140, R141) -/

/-- A wiped branch enumerates nothing and has no record IDENTIFIED, whatever becomes of its state. -/
theorem BranchUnit.EnumLaw.of_vacant {u : BranchUnit} (hr : u.records = Vector.replicate 8 .vacant)
    (he : u.enumeration = .idle) : u.EnumLaw :=
  .of_idle he fun p => by rw [hr]; simp [Record.isIdentified]

/-- An ACTIVE or DRAINING branch starts afresh as ACTIVE, and the CLEAR that it owes waits in a port that is UP: the one owed by
the link's entry into UP, or one of the reset (R141). -/
theorem BranchUnit.Lawful.cleared {pin : Bool} {u v : BranchUnit} (h : u.Lawful pin)
    (hs : u.state = .active ∨ u.state = .draining) (hst : v.state = .active) (ho : v.clearOwed = true)
    (hp : v.port = u.port) (hc : v.credit = u.credit) (he : v.EnumLaw) (hr : v.config = u.config)
    (hu : v.unsent = u.unsent ++ if u.unsent.contains .clear ∨ u.port.link ≠ .up then [] else [.resetClear]) :
    v.Lawful pin := by
  have link := h.linkLaw
  have order := h.orderLaw
  have noHush := order.no_hush (BranchUnit.sleepy_of_awake hs)
  by_cases hup : u.port.link = .up
  · have noHush' : BranchFrame.hush ∉ v.unsent := by rw [hu]; split <;> simp [noHush]
    refine (BranchUnit.lawful_iff _ _).2 ⟨⟨hp ▸ link.port, ?_, fun hn => absurd (hp ▸ hup) hn, hc ▸ link.credit⟩, ?_, he,
      hr ▸ h.inRange⟩
    · obtain rfl := h.pin_of_link (by simp [hup])
      simp [BranchUnit.linkInStep, hst, hp, hup]
    · refine ⟨fun hm => absurd hm noHush', fun hm => noHush' (List.dropLast_subset _ hm), ?_, fun _ => ⟨hst, ho⟩,
        fun _ _ _ => ?_, fun _ => ho, fun ha => absurd (hst.symm.trans ha) nofun, fun ha => absurd (hst.symm.trans ha) nofun⟩
      · have one := order.oneClear
        rw [hu]
        split <;> simpa [List.count_append] using one
      · rw [BranchUnit.clearWaits_iff, hu]
        by_cases hm : BranchFrame.clear ∈ u.unsent <;> simp [hm, hup]
  · obtain ⟨credit, unsent⟩ := link.idle hup
    have hpin : pin = true := by
      cases pin with
      | true => rfl
      | false => exact absurd (h.link_of_awake hs) hup
    subst hpin
    have empty : v.unsent = [] := by simp [hu, unsent, hup]
    have step := link.inStep
    refine (BranchUnit.lawful_iff _ _).2 ⟨⟨hp ▸ link.port, ?_, fun _ => ⟨hc.trans credit, empty⟩, hc ▸ link.credit⟩, ?_, he,
      hr ▸ h.inRange⟩
    · simpa [BranchUnit.linkInStep, hp] using step
    · exact .of_empty empty nofun (fun _ => ho) (fun ha => absurd (hst.symm.trans ha) nofun)
        fun ha => absurd (hst.symm.trans ha) nofun

section

variable {t : State} {b : Branch}

/-- What a wiped branch becomes is all that the law still asks of the state. -/
theorem State.BranchesLawful.becomes (h : s.BranchesLawful) {u v : BranchUnit} (ht : t.outline = (s.setBr b u).outline)
    (hv : v.Lawful s.resetPin) : (t.setBr b v).BranchesLawful := by
  refine h.of_setBr (b := b) (v := v) ((State.outline_setBr ht b rfl).trans ?_) fun _ => hv
  rw [State.setBr_setBr]

/-- The outline of the branch that has been replaced. -/
theorem State.outline_br {u : BranchUnit} (ht : t.outline = (s.setBr b u).outline) : (t.br b).outline = u.outline := by
  have unit := congrFun (Prod.mk.inj ht).2 b
  rwa [State.br_setBr] at unit

/-- A wiped branch that was ACTIVE or DRAINING is ACTIVE, with a CLEAR that waits (R141). -/
theorem State.BranchesLawful.wipedClears (h : s.BranchesLawful) (ht : t.outline = (s.setBr b (s.br b).wiped).outline)
    (hs : (s.br b).state = .active ∨ (s.br b).state = .draining) :
    (if (t.br b).unsent.contains .clear then t.updBr b fun u => { u with state := .active }
      else (t.updBr b fun u => { u with state := .active }).hand b .resetClear).BranchesLawful := by
  have unit := State.outline_br ht
  simp only [BranchUnit.outline, Prod.mk.injEq] at unit
  obtain ⟨-, owed, config, records, enumeration, port, credit, unsent⟩ := unit
  have unsent : (t.br b).unsent = (s.br b).unsent := unsent
  rw [unsent]
  split
  · rename_i hm
    refine h.becomes ht ((h b).cleared hs rfl owed port credit (.of_vacant records enumeration) config ?_)
    rw [if_pos (.inl hm), List.append_nil]
    exact unsent
  · rename_i hm
    rw [State.hand_eq, State.br_updBr, State.updBr_eq, State.setBr_setBr]
    refine h.becomes ht ((h b).cleared hs rfl owed port credit (.of_vacant records enumeration) config ?_)
    have port : (t.br b).port = (s.br b).port := port
    dsimp only
    rw [unsent, port]
    by_cases hup : (s.br b).port.link = .up
    · rw [if_pos hup, if_neg (by simpa [hup] using hm)]
    · rw [if_neg hup, if_pos (.inr hup)]

/-- A wiped branch that was DORMANT or FAILED wakes (R136, R141). -/
theorem State.BranchesLawful.wipedWakes (h : s.BranchesLawful) (ht : t.outline = (s.setBr b (s.br b).wiped).outline)
    (hs : (s.br b).state = .dormant ∨ (s.br b).state = .failed) : (t.enterWaking b).BranchesLawful := by
  have unit := State.outline_br ht
  simp only [BranchUnit.outline, Prod.mk.injEq] at unit
  obtain ⟨state, -, config, records, enumeration, port, credit, unsent⟩ := unit
  have hpin : t.resetPin = s.resetPin := (Prod.mk.inj ht).1
  have law := h b
  have active : (s.br b).state ≠ .active := by rcases hs with hs | hs <;> simp [hs]
  have woken : ((t.br b).woken t).Lawful s.resetPin := by
    refine (BranchUnit.lawful_iff _ _).2 ⟨?_, ?_, .of_vacant records enumeration, ?_⟩
    · rw [← hpin]
      exact BranchUnit.LinkLaw.woken (hpin ▸ law.linkLaw.congr state port credit unsent) (by rw [state]; exact hs)
    · exact law.orderLaw.waking (law.orderLaw.no_clear (.inl active)) rfl unsent
    · show ((t.br b).config).inRange = true
      rw [config]
      exact law.inRange
  exact (h.becomes ht woken).of_outline (t.outline_enterWaking b)

/-- The branch as a BRANCH-RESET has wiped it becomes lawful again by what the reset makes of its state (R141). -/
theorem State.BranchesLawful.resetBranchState (h : s.BranchesLawful)
    (ht : t.outline = (s.setBr b (s.br b).wiped).outline) : (t.resetBranchState b).BranchesLawful := by
  have unit := State.outline_br ht
  simp only [BranchUnit.outline, Prod.mk.injEq] at unit
  obtain ⟨state, -⟩ := unit
  have state : (t.br b).state = (s.br b).state := state
  unfold State.resetBranchState
  dsimp only
  rw [state]
  cases hs : (s.br b).state with
  | active => exact h.wipedClears ht (.inl hs)
  | draining => exact h.wipedClears ht (.inr hs)
  | dormant => exact h.wipedWakes ht (.inl hs)
  | failed => exact h.wipedWakes ht (.inr hs)
  | waking d =>
    refine h.of_setBr ht fun hb => (BranchUnit.lawful_iff _ _).2 ⟨hb.linkLaw.congr rfl rfl rfl rfl, ?_, .of_vacant rfl rfl, hb.inRange⟩
    exact hb.orderLaw.waking (hb.orderLaw.no_clear (.inl (by simp [hs]))) hs rfl
  | down =>
    have owes := (h b).orderLaw.downOwes hs
    exact h.of_setBr ht fun hb => (BranchUnit.lawful_iff _ _).2 ⟨hb.linkLaw.congr rfl rfl rfl rfl,
      hb.orderLaw.congr rfl owes.symm rfl, .of_vacant rfl rfl, hb.inRange⟩

end

theorem State.BranchesLawful.resetBranch (h : s.BranchesLawful) (b : Branch) : (s.resetBranch b).BranchesLawful := by
  rw [State.resetBranch_event]
  refine State.BranchesLawful.of_outline (h.resetBranchState (b := b) ?_) (State.outline_branchEvent _ _ _ _ _ _ _)
  rw [State.abortEnumeration_eq, State.vacateRecords, State.updBr_updBr, State.updBr_updBr, State.updBr_eq]
  refine State.outline_setBr ((State.outline_orphanWaiting _ _ _ _).trans (s.outline_emptyQueue b)) b ?_
  have unit : ((s.emptyQueue b).orphanWaiting b (fun _ => true) .flushed).br b = (s.emptyQueue b).br b := rfl
  rw [unit, State.emptyQueue, State.br_updBr]
  rfl

/-! ### The other commands (R98, R110, R128, R132, R158, R209) -/

/-- The record of a position that is given up is not IDENTIFIED, so that it is not the one at work (R110). -/
theorem State.BranchesLawful.releaseRecord (h : s.BranchesLawful) (b : Branch) (p : Position)
    (ha : s.commandAccepted (.release b p) = true) : (s.releaseRecord b p).BranchesLawful := by
  have told : ∀ t : State, t.BranchesLawful → ((t.br b).records[p]).isIdentified = false →
      State.BranchesLawful (State.removeNoticesOf b (· == p) (t.setRecord b p .vacant)) := fun t g hi => by
    refine State.BranchesLawful.of_outline (g.reenumerate b _ rfl fun he => ⟨he.active, fun q => ?_⟩)
      (State.outline_removeNoticesOf _ _ _)
    dsimp only
    rw [records_set_get]
    split
    · rename_i hq
      subst hq
      exact iff_of_false nofun fun hw => absurd ((he.working q).2 hw) (by simpa using hi)
    · exact he.working q
  unfold State.releaseRecord
  dsimp only
  cases hr : s.record b p with
  | vacant => exact absurd ha (by simp [State.commandAccepted_release_unknown (.inl hr)])
  | identified m base => exact absurd ha (by simp [State.commandAccepted_release_unknown (.inr ⟨m, base, hr⟩)])
  | unplaced | lost => exact told s h (by rw [← State.record, hr]; rfl)
  | assigned m base =>
    have awake := (State.commandAccepted_release_assigned hr).1 ha
    refine told _ (h.hand b ⟨nofun, nofun, nofun⟩ (BranchUnit.sleepy_of_awake awake)) ?_
    show ((State.hand b (.release base) s).br b).records[p].isIdentified = false
    rw [State.hand_eq, State.br_setBr]
    show (s.record b p).isIdentified = false
    rw [hr]; rfl

/-- A drain that is cancelled leaves an ACTIVE branch that owes no CLEAR (R132). -/
theorem State.BranchesLawful.cancelDrain (h : s.BranchesLawful) (b : Branch) (hs : (s.br b).state = .draining) :
    (s.updBr b fun u => { u with state := .active }).BranchesLawful := by
  refine h.updBr b _ fun hb => ?_
  have link := hb.linkLaw
  have order := hb.orderLaw
  have owes := order.drainingOwesNone hs
  have noClear := order.no_clear (.inl (by simp [hs]))
  have noHush := order.no_hush (by simp [BranchUnit.sleepy, hs])
  refine (BranchUnit.lawful_iff _ _).2 ⟨⟨link.port, ?_, link.idle, link.credit⟩, ?_,
    hb.enumLaw.restate (hb.enumLaw.idle (by simp [hs])) rfl rfl, hb.inRange⟩
  · simpa [BranchUnit.linkInStep, hs] using link.inStep
  · exact ⟨fun hm => absurd hm noHush, order.hushLast, order.oneClear, fun hw => absurd (hw.symm.trans noClear) nofun,
      fun _ _ ho => absurd (ho.symm.trans owes) nofun, nofun, nofun, nofun⟩

theorem State.BranchesLawful.wakeBranch (h : s.BranchesLawful) (b : Branch) : (s.wakeBranch b).BranchesLawful := by
  have unlatched : (s.updBr b fun u => { u with wakeLatch := false }).BranchesLawful := h.of_outline (s.outline_updBr b _ rfl)
  unfold State.wakeBranch
  dsimp only
  split
  · rename_i hs; exact unlatched.cancelDrain b hs
  · rename_i hs; exact unlatched.enterWaking b (.inl hs)
  · rename_i hs; exact unlatched.enterWaking b (.inr hs)
  all_goals exact unlatched

theorem State.outline_ackNotice (s : State) (src : Source) (cs : CauseSet) : (s.ackNotice src cs).outline = s.outline := by
  cases src with
  | self =>
    have acked : (s.ackSelf cs).outline = s.outline := by
      unfold State.ackSelf
      dsimp only
      split
      · exact s.outline_removeNotices _
      · split
        · rfl
        · exact s.outline_afterRemoval _ _
    exact Eq.trans rfl acked
  | attachment b p =>
    have acked := (State.outline_updBr (s.removeNotices (· == .attachment b p)) b
      (fun u => { u with wakeLatch := false }) rfl).trans (s.outline_removeNotices _)
    exact Eq.trans rfl acked

/-- Zeroing counters touches no link (R209). -/
theorem State.BranchesLawful.zeroCounters (h : s.BranchesLawful) : s.zeroCounters.BranchesLawful := by
  intro b
  have unit : s.zeroCounters.br b = (s.br b).zeroCounters := mapTable_get _ _ _
  rw [unit]
  have law := h b
  exact (BranchUnit.lawful_iff _ _).2 ⟨law.linkLaw.withPort rfl rfl law.linkLaw.port rfl rfl, law.orderLaw.congr rfl rfl rfl,
    law.enumLaw.congr rfl rfl rfl, law.inRange⟩

/-- A command that its owner accepts keeps the law (R208). -/
theorem State.BranchesLawful.applyCommand (h : s.BranchesLawful) {c : Command} (ha : s.commandAccepted c = true) :
    (s.applyCommand c).BranchesLawful := by
  cases c with
  | enumerate b =>
    obtain ⟨hs, hi⟩ := (s.commandAccepted_enumerate b).1 ha
    exact h.startEnumeration b hs hi
  | release b p => exact h.releaseRecord b p ha
  | branchReset b => exact h.resetBranch b
  | dormant b => exact h.beginDrain b ha
  | wake b => exact h.wakeBranch b
  | noticeAck src cs => exact h.of_outline (s.outline_ackNotice src cs)
  | clearCounters => exact h.zeroCounters

end

end Sys2Proof.Machine

namespace Sys2Proof.Machine

open Sys2Proof

section

variable {s : State}

/-! ### Carrying out a write (R205, R206) -/

/-- Only a command word names a command (R208). -/
theorem MgmtRequest.isCommand_of_command? {r : MgmtRequest} {x : WordRecord} {c : Command} (h : r.command? x = some c) :
    x.isCommand = true := by
  cases x <;> simp_all [MgmtRequest.command?, WordRecord.isCommand]

/-- What a command's owner accepts does not turn on a window entry, a configuration or the interval (R98, R110, R128, R158). -/
theorem State.applyRecord_commandAccepted (s : State) (r : MgmtRequest) {x : WordRecord} (hx : x.isCommand = false)
    (c : Command) : (s.applyRecord r x).commandAccepted c = s.commandAccepted c := by
  cases x with
  | unmapped | readOnly | interval => rfl
  | window i j => cases j <;> rfl
  | globalCommand | branchCommand => exact nomatch hx
  | config b j =>
    cases j with
    | succ j => rfl
    | zero =>
      have unit (d : Branch) : ∃ k, (s.applyRecord r (.config b 0)).br d = { s.br d with config := k } := by
        show ∃ k, (s.updBr b fun u => { u with config := r.configFor b }).br d = _
        rw [State.updBr_eq, State.br_setBr_eq]
        split
        · rename_i e; subst e; exact ⟨_, rfl⟩
        · exact ⟨_, rfl⟩
      cases c with
      | noticeAck | clearCounters | branchReset | wake => rfl
      | enumerate d | dormant d =>
        obtain ⟨k, hk⟩ := unit d
        simp only [State.commandAccepted, hk, BranchUnit.enumerating]
      | release d p =>
        obtain ⟨k, hk⟩ := unit d
        simp only [State.commandAccepted, State.record, hk]

/-- A record that may be applied: its configuration values lie in their ranges, and the command it names is accepted. -/
def State.MayApply (s : State) (r : MgmtRequest) (x : WordRecord) : Prop :=
  (∀ b j, x = .config b j → (r.configFor b).inRange = true) ∧ ∀ c, r.command? x = some c → s.commandAccepted c = true

theorem State.BranchesLawful.applyNamed (h : s.BranchesLawful) (o : Option Command)
    (ho : ∀ c, o = some c → s.commandAccepted c = true) : ((o.map fun c => s.applyCommand c).getD s).BranchesLawful := by
  cases o with
  | none => exact h
  | some c => exact h.applyCommand (ho c rfl)

theorem State.BranchesLawful.applyRecord (h : s.BranchesLawful) {r : MgmtRequest} {x : WordRecord}
    (hx : s.MayApply r x) : (s.applyRecord r x).BranchesLawful := by
  obtain ⟨range, accepted⟩ := hx
  cases x with
  | unmapped | readOnly => exact h
  | interval => exact h.of_outline rfl
  | window i j =>
    cases j with
    | zero => exact h.of_outline rfl
    | succ j => exact h
  | globalCommand => exact h.applyNamed (r.command? .globalCommand) accepted
  | branchCommand b => exact h.applyNamed (r.command? (.branchCommand b)) accepted
  | config b j =>
    cases j with
    | succ j => exact h
    | zero =>
      exact h.updBr b _ fun hb => (BranchUnit.lawful_iff _ _).2 ⟨hb.linkLaw.congr rfl rfl rfl rfl,
        hb.orderLaw.congr rfl rfl rfl, hb.enumLaw.congr rfl rfl rfl, range b 0 rfl⟩

/-- Records of which at most one is a command word, each of which may be applied: what a command's owner accepts still stands when
the command takes effect (R205, R206). -/
theorem State.BranchesLawful.applyRecords (r : MgmtRequest) (xs : List WordRecord)
    (one : xs.countP WordRecord.isCommand ≤ 1) {s : State} (h : s.BranchesLawful) (hx : ∀ x ∈ xs, s.MayApply r x) :
    (xs.foldl (State.applyRecord r) s).BranchesLawful := by
  induction xs generalizing s with
  | nil => exact h
  | cons x xs ih =>
    refine ih ?_ (h.applyRecord (hx x List.mem_cons_self)) fun y hy => ?_
    · rw [List.countP_cons] at one
      exact Nat.le_of_add_right_le one
    · obtain ⟨range, accepted⟩ := hx y (List.mem_cons_of_mem _ hy)
      refine ⟨range, fun c hc => ?_⟩
      have plain : x.isCommand = false := by
        by_contra hx
        have named : 0 < xs.countP WordRecord.isCommand :=
          List.countP_pos_iff.2 ⟨y, hy, MgmtRequest.isCommand_of_command? hc⟩
        rw [List.countP_cons_of_pos (by simpa using hx)] at one
        omega
      rw [s.applyRecord_commandAccepted r plain]
      exact accepted c hc

theorem State.outline_countWrite (s : State) (c : Option Command) : (s.countWrite c).outline = s.outline := by
  unfold State.countWrite
  split <;> rfl

/-- A write that passes the tests of R205 carries at most one command. -/
theorem State.judgeWrite_none_one {r : MgmtRequest} (h : s.judgeWrite r = none) :
    r.records.countP WordRecord.isCommand ≤ 1 := by
  by_contra hc
  have two : 2 ≤ r.records.countP WordRecord.isCommand := by omega
  unfold State.judgeWrite at h
  dsimp only at h
  split at h; · exact nomatch h
  split at h; · exact nomatch h
  rw [if_pos (.inl two)] at h
  exact nomatch h

theorem State.judgeWrite_none_mayApply {r : MgmtRequest} (h : s.judgeWrite r = none) {x : WordRecord}
    (hx : x ∈ r.records) : s.MayApply r x := by
  obtain ⟨-, hbad, href⟩ := State.judgeWrite_none h x hx
  refine ⟨fun b j e => ?_, fun c hc => ?_⟩
  · subst e
    simpa [State.badEntry] using hbad
  · have named := MgmtRequest.isCommand_of_command? hc
    cases x with
    | globalCommand | branchCommand => simpa [State.refusedNow, hc] using href
    | unmapped | readOnly | interval | window | config => exact nomatch named

theorem State.BranchesLawful.carryOutWrite (h : s.BranchesLawful) (r : MgmtRequest) : (s.carryOutWrite r).BranchesLawful := by
  unfold State.carryOutWrite
  split
  · exact h.of_outline ((State.outline_answer _ _ _).trans rfl)
  · rename_i hj
    refine State.BranchesLawful.of_outline ?_ ((State.outline_answer _ _ _).trans (State.outline_countWrite _ _))
    exact .applyRecords r r.records (State.judgeWrite_none_one hj) h fun x hx => State.judgeWrite_none_mayApply hj hx

theorem State.BranchesLawful.carryOut (h : s.BranchesLawful) (r : MgmtRequest) : (s.carryOut r).BranchesLawful := by
  unfold State.carryOut
  split
  · exact h.of_outline ((State.outline_placeReply _ _ _ _ _).trans rfl)
  · exact h.of_outline ((State.outline_placeReply _ _ _ _ _).trans rfl)
  · exact h.carryOutWrite r
  · exact h.carryOutWrite r

/-! ### The classifier (R28, R33, R38) -/

theorem State.outline_refuseRequest (s : State) (h : ReqHeader) (why : RefuseReason) :
    (s.refuseRequest h why).outline = s.outline := by
  cases h with
  | tagged k t => exact (State.outline_placeReply _ t _ _ _).trans rfl
  | post => rfl

/-- A request that joins the queue of a DORMANT branch wakes it (R38, R133). -/
theorem State.BranchesLawful.enqueueRequest (h : s.BranchesLawful) (r : Request) (i : WindowIx) (b : Branch) (addr : Nat)
    (p : Position) : (s.enqueueRequest r i b addr p).BranchesLawful := by
  have hit : State.BranchesLawful { s with
      windows := s.windows.set i.val { s.windows[i] with hits := (s.windows[i]).hits + 1 } i.isLt } := h.of_outline rfl
  rw [State.enqueueRequest_eq]
  dsimp only
  have queued (q : Slot) := hit.of_outline (State.outline_updBr _ b (fun u => { u with queue := u.queue ++ [q] }) rfl)
  split
  · rename_i hs
    refine State.BranchesLawful.enterWaking (queued _) b (.inl ?_)
    rw [State.br_updBr]
    exact hs
  · exact queued _

theorem State.BranchesLawful.settle (h : s.BranchesLawful) (r : Request) (v : Verdict) : (s.settle r v).BranchesLawful := by
  have dropped : s.dropIngressHead.BranchesLawful := h.of_outline rfl
  unfold State.settle
  split
  · exact dropped.of_outline (State.outline_refuseRequest _ _ _)
  · split <;> exact h.of_outline rfl
  · exact dropped.enqueueRequest _ _ _ _ _

theorem State.BranchesLawful.retestHeld (h : s.BranchesLawful) : s.retestHeld.BranchesLawful := by
  unfold State.retestHeld
  split
  · exact State.BranchesLawful.settle (h.of_outline rfl) _ _
  · exact h
  · exact h

theorem State.BranchesLawful.takeHead (h : s.BranchesLawful) : s.takeHead.BranchesLawful := by
  unfold State.takeHead
  split
  · exact h
  · exact h
  · rename_i r _ _ _
    have dropped : s.dropIngressHead.BranchesLawful := h.of_outline rfl
    split
    · exact h.settle r _
    · split
      · rename_i t _ _
        have accepted : (s.accept t).BranchesLawful := h.of_outline rfl
        split
        · exact h.of_outline ((State.outline_raise _ _).trans rfl)
        · exact accepted.settle r _
      · exact h

theorem State.BranchesLawful.executeHead (h : s.BranchesLawful) (row : MgmtRow) : (s.executeHead row).BranchesLawful := by
  unfold State.executeHead
  split
  · exact h
  · rename_i r rest _
    have popped : State.BranchesLawful { s with mgmtQueue := rest } := h.of_outline rfl
    split
    · exact popped.retestHeld.carryOut r
    · exact h

/-! ### Frames that arrive (R185, R187, R190) -/

theorem State.BranchesLawful.onU (h : s.BranchesLawful) (take : State → State)
    (ht : s.u.port.link = .up → s.goodFrameOnU.BranchesLawful → (take s.goodFrameOnU).BranchesLawful) :
    (s.onU take).BranchesLawful := by
  unfold State.onU
  split
  · rename_i hup
    exact ht hup (h.of_outline rfl)
  · exact h

theorem State.BranchesLawful.onBranch (h : s.BranchesLawful) (b : Branch) (take : State → State)
    (ht : (s.goodFrameOn b).BranchesLawful → (take (s.goodFrameOn b)).BranchesLawful) : (s.onBranch b take).BranchesLawful := by
  unfold State.onBranch
  split
  · exact ht (h.goodFrameOn b)
  · exact h

theorem State.BranchesLawful.onFrame (h : s.BranchesLawful) (hu : s.ResetHoldsU) (p : Port) (data : List Word)
    (take : State → State) (ht : (take s).BranchesLawful) : (s.onFrame p data take).BranchesLawful := by
  unfold State.onFrame
  split
  · exact h.receiveBad hu p
  · exact ht

end

end Sys2Proof.Machine

namespace Sys2Proof.Machine

open Sys2Proof

section

variable {s t : State}

/-! ### Every command keeps the law of the branches -/

/-- A power-on reset starts every branch afresh, whatever the state (R175). -/
theorem execPowerOnReset_lawful {span1 span0 : Bool} (e : execPowerOnReset span1 span0 s = .next t) : t.BranchesLawful := by
  obtain rfl := Host.Outcome.next.inj e
  intro b
  have afresh : BranchUnit.Lawful false { (s.br b).afterLinkReset s.now with
      port := (((s.br b).port.atReset s.now).zeroCounters.goOff).train s.now } :=
    .afresh s.now (LinkPort.train_lawful _ _) rfl
  refine afresh.of_outline ?_
  have unit := mapTable_get (fun _ u => u.startPort s.linkReset.zeroCounters.now) s.linkReset.zeroCounters.branches b
  have zeroed : s.linkReset.zeroCounters.branches[b] = (s.linkReset.br b).zeroCounters := mapTable_get _ _ _
  rw [zeroed, State.linkReset_br] at unit
  exact (congrArg BranchUnit.outline unit).trans rfl

/-- RESET holds every link OFF, and nothing else changes (R175). -/
theorem execResetAsserted_lawful (h : s.BranchesLawful) (e : execResetAsserted s = .next t) : t.BranchesLawful := by
  obtain rfl := Host.Outcome.next.inj e
  intro b
  have unit := mapTable_get (fun _ u => { u with port := u.port.goOff, credit := 0, unsent := [] }) s.branches b
  refine BranchUnit.Lawful.of_outline ?_ (congrArg BranchUnit.outline unit)
  have order := (h b).orderLaw
  exact (BranchUnit.lawful_iff _ _).2 ⟨⟨LinkPort.goOff_lawful _, rfl, fun _ => ⟨rfl, rfl⟩, Nat.zero_le _⟩,
    .of_empty rfl nofun order.downOwes order.drainingOwesNone order.dormantOwesNone, (h b).enumLaw.congr rfl rfl rfl,
    (h b).inRange⟩

/-- A new attempt of a port that trains (R183). -/
theorem execTrainingAttemptTimeout_lawful {p : Port} (h : s.BranchesLawful)
    (e : execTrainingAttemptTimeout p s = .next t) : t.BranchesLawful := by
  obtain rfl := Host.Outcome.next.inj e
  split
  · rename_i d ht _
    refine h.runOut d _ fun g => ?_
    cases p with
    | u => exact g.of_outline rfl
    | branch b =>
      have training : ((s.advanceTo d).br b).port.link = .training := ht
      exact g.withPort b _ rfl rfl fun hp =>
        ⟨iff_of_true rfl training, hp.2.1, hp.2.2⟩
  all_goals exact h

theorem execLinkEntersUp_lawful {p : Port} (h : s.BranchesLawful) (e : execLinkEntersUp p s = .next t) :
    t.BranchesLawful := by
  obtain rfl := Host.Outcome.next.inj e
  split
  · rename_i ht
    cases p with
    | u => exact h.of_outline rfl
    | branch b => exact h.branchEntersUp b ht
  · exact h

theorem execWakeTaken_lawful {p : Port} (h : s.BranchesLawful) (e : execWakeTaken p s = .next t) : t.BranchesLawful := by
  obtain rfl := Host.Outcome.next.inj e
  split
  · rename_i hq
    obtain ⟨hq, -⟩ := hq
    cases p with
    | u => exact h.of_outline rfl
    | branch b => exact h.wakeByNeighbour b hq
  · exact h

theorem execQuietRelistenTimeout_lawful {b : Branch} {still : Bool} (h : s.BranchesLawful)
    (e : execQuietRelistenTimeout b still s = .next t) : t.BranchesLawful := by
  obtain rfl := Host.Outcome.next.inj e
  split
  · rename_i d hq _
    refine h.runOut d _ fun g => ?_
    have listens : State.BranchesLawful
        ((s.advanceTo d).updBr b fun u => { u with port := { u.port with relistenTimer := none } }) :=
      g.withPort b _ rfl rfl fun hp => ⟨hp.1, nofun, hp.2.2⟩
    dsimp only
    split
    · exact listens.wakeByNeighbour b (by rw [State.br_updBr]; exact hq)
    · exact listens
  all_goals exact h

theorem execCredit_lawful {b : Branch} {n : Byte} (h : s.BranchesLawful) (e : execCredit b n s = .next t) :
    t.BranchesLawful := by
  obtain rfl := Host.Outcome.next.inj e
  split
  · rename_i hup
    exact (h.goodFrameOn b).receiveCredit b n ((s.goodFrameOn_link b).trans hup)
  · exact h

theorem execBranchClearSent_lawful {b : Branch} (h : s.BranchesLawful) (e : execBranchClearSent b s = .next t) :
    t.BranchesLawful := by
  obtain rfl := Host.Outcome.next.inj e
  split
  · rename_i hq
    split
    · rename_i hup; exact h.clearSent b (.inl rfl) hq hup
    · exact h
  · rename_i hq
    split
    · rename_i hup; exact h.clearSent b (.inr rfl) hq hup
    · exact h
  · exact h

theorem execHushSent_lawful {b : Branch} (h : s.BranchesLawful) (e : execHushSent b s = .next t) : t.BranchesLawful := by
  obtain rfl := Host.Outcome.next.inj e
  split
  · rename_i hq
    split
    · rename_i hup; exact h.hushSent b hq hup
    · exact h
  · exact h

theorem execBranchFrameSent_lawful {b : Branch} (h : s.BranchesLawful) (e : execBranchFrameSent b s = .next t) :
    t.BranchesLawful := by
  obtain rfl := Host.Outcome.next.inj e
  have leaves : ∀ f rest, (s.br b).unsent = f :: rest → f.Plain → State.BranchesLawful
      (if (s.br b).port.link = .up then s.updBr b fun u => { u with unsent := rest } else s) := fun f rest hq hf => by
    split
    · rename_i hup; exact h.frameSent b hf hq hup
    · exact h
  cases hq : (s.br b).unsent with
  | nil => exact h
  | cons f rest =>
    cases f with
    | clear | resetClear | hush => exact h
    | tagged | post | identify | assign | release => exact leaves _ rest hq ⟨nofun, nofun, nofun⟩

theorem execWakeTimerExpiry_lawful {b : Branch} (h : s.BranchesLawful) (e : execWakeTimerExpiry b s = .next t) :
    t.BranchesLawful := by
  obtain rfl := Host.Outcome.next.inj e
  split
  · rename_i d hs
    exact h.runOut d _ fun g => g.wakeFails b hs
  all_goals exact h

theorem execRePresentTimerExpiry_lawful (h : s.BranchesLawful) (e : execRePresentTimerExpiry s = .next t) :
    t.BranchesLawful := by
  obtain rfl := Host.Outcome.next.inj e
  split
  · exact h.runOut _ _ fun g => g.of_outline ((State.outline_presentationDue _).trans rfl)
  · exact h

theorem execAgeDeadlineExpiry_lawful {b : Branch} (h : s.BranchesLawful) (e : execAgeDeadlineExpiry b s = .next t) :
    t.BranchesLawful := by
  obtain rfl := Host.Outcome.next.inj e
  split
  · exact h
  · exact h.runOut _ _ fun g => g.ageSlots b

theorem execReplyDeadlineExpiry_lawful {i : EntryIx} (h : s.BranchesLawful) (e : execReplyDeadlineExpiry i s = .next t) :
    t.BranchesLawful := by
  obtain rfl := Host.Outcome.next.inj e
  split
  · exact h.runOut _ _ fun g => g.replyTimedOut i _ _
  all_goals exact h

theorem execOrphanDeadlineExpiry_lawful {i : EntryIx} (h : s.BranchesLawful)
    (e : execOrphanDeadlineExpiry i s = .next t) : t.BranchesLawful := by
  obtain rfl := Host.Outcome.next.inj e
  split
  · exact h.runOut _ _ fun g => g.of_outline rfl
  all_goals exact h

theorem execUAssign_lawful {base : Word} (h : s.BranchesLawful) (e : execUAssign base s = .next t) :
    t.BranchesLawful := by
  obtain rfl := Host.Outcome.next.inj e
  refine h.onU _ fun _ g => g.of_outline ?_
  dsimp only
  split
  · unfold State.makeOwed
    dsimp only
    split
    · exact (State.outline_presentationDue _).trans rfl
    · rfl
  · rfl

theorem execURelease_lawful {base : Word} (h : s.BranchesLawful) (e : execURelease base s = .next t) :
    t.BranchesLawful := by
  obtain rfl := Host.Outcome.next.inj e
  refine h.onU _ fun _ g => ?_
  have left : State.BranchesLawful { s.goodFrameOnU with
      member := none, upstream := { s.goodFrameOnU.upstream with releases := s.goodFrameOnU.upstream.releases + 1 } } :=
    g.of_outline rfl
  have ignored : s.goodFrameOnU.countIgnored.BranchesLawful := g.of_outline rfl
  dsimp only
  split
  · exact left.retestHeld
  · exact ignored

/-- A CLEAR from the parent is a link reset, while U stays UP (R171). -/
theorem execUClear_lawful (hu : s.ResetHoldsU) (h : s.BranchesLawful) (e : execUClear s = .next t) : t.BranchesLawful := by
  obtain rfl := Host.Outcome.next.inj e
  refine h.onU _ fun hup g => ?_
  have counted : State.BranchesLawful { s.goodFrameOnU with
      upstream := { s.goodFrameOnU.upstream with clears := s.goodFrameOnU.upstream.clears + 1 } } := g.of_outline rfl
  exact State.linkReset_lawful (hu hup) counted

theorem execUnknownFrameDiscarded_lawful {p : Port} (h : s.BranchesLawful)
    (e : execUnknownFrameDiscarded p s = .next t) : t.BranchesLawful := by
  cases p with
  | u =>
    obtain rfl := Host.Outcome.next.inj e
    exact h.onU _ fun _ g => g.of_outline rfl
  | branch b =>
    obtain rfl := Host.Outcome.next.inj e
    exact h.onBranch b _ fun g => g.discardOn b

/-- A request is taken into the ingress buffer, which is none of a branch's. -/
theorem State.outline_receiveRequest (s : State) (r : Request) : (s.receiveRequest r).outline = s.outline := by
  unfold State.receiveRequest
  split <;> rfl

/-- A happening with one outcome. -/
theorem lawful_of_next {x : State} (e : (.next x : Host.Outcome State Fault Refusal) = .next t) (g : x.BranchesLawful) :
    t.BranchesLawful :=
  Host.Outcome.next.inj e ▸ g

/-- An ATTENTION is the notice unit's alone (R150). -/
theorem State.outline_takeAttention (s : State) (b : Branch) (code hop : Byte) :
    (s.takeAttention b code hop).outline = s.outline := by
  unfold State.takeAttention
  split
  · rfl
  · split
    · split
      · rfl
      · exact State.outline_joinNotice _ _
    · rfl

/-- Every command keeps each branch in step with its link, where RESET is not asserted while U is UP. -/
theorem exec_lawful {c : Instr} (hu : s.ResetHoldsU) (h : s.BranchesLawful) (e : exec c s = .next t) : t.BranchesLawful := by
  cases c with
  | powerOnReset => exact execPowerOnReset_lawful e
  | resetAsserted => exact execResetAsserted_lawful h e
  | requestFrame hdr addr count data =>
    exact lawful_of_next e (h.onFrame hu _ _ _ (h.onU _ fun _ g => g.of_outline (State.outline_receiveRequest _ _)))
  | uCreditSent => exact lawful_of_next e (h.of_outline (by split <;> rfl))
  | classifierTake => exact lawful_of_next e h.takeHead
  | uIdentify => exact lawful_of_next e (h.onU _ fun _ g => g.of_outline rfl)
  | uAssign => exact execUAssign_lawful h e
  | uRelease => exact execURelease_lawful h e
  | uClear => exact execUClear_lawful hu h e
  | uHush => exact lawful_of_next e (h.onU _ fun _ g => g.of_outline ((State.outline_signalWakeU _).trans rfl))
  | uUnexpectedFrame => exact lawful_of_next e (h.onU _ fun _ g => g.of_outline rfl)
  | uCreditReceived => exact lawful_of_next e (h.onU _ fun _ g => g.of_outline rfl)
  | egressFrameSent => exact lawful_of_next e (h.of_outline (by split <;> rfl))
  | uMemberFrameSent => exact lawful_of_next e (h.of_outline (by split <;> rfl))
  | badFrame p => exact lawful_of_next e (h.receiveBad hu p)
  | farEndTrains p => exact lawful_of_next e (h.departure hu p)
  | lossOfSignal p => exact lawful_of_next e (h.departure hu p)
  | unknownFrameDiscarded => exact execUnknownFrameDiscarded_lawful h e
  | branchAwayFrame b => exact lawful_of_next e (h.onBranch b _ fun g => g.discardOn b)
  | trainingAttemptTimeout => exact execTrainingAttemptTimeout_lawful h e
  | linkEntersUp => exact execLinkEntersUp_lawful h e
  | wakeTaken => exact execWakeTaken_lawful h e
  | quietRelistenTimeout => exact execQuietRelistenTimeout_lawful h e
  | credit => exact execCredit_lawful h e
  | issue b => exact lawful_of_next e (h.issueHead b)
  | ageDeadlineExpiry => exact execAgeDeadlineExpiry_lawful h e
  | reply b => exact lawful_of_next e (h.onFrame hu _ _ _ (h.onBranch b _ fun g => g.takeReply b _ _ _ _))
  | replyDeadlineExpiry => exact execReplyDeadlineExpiry_lawful h e
  | orphanDeadlineExpiry => exact execOrphanDeadlineExpiry_lawful h e
  | descriptor b => exact lawful_of_next e (h.onBranch b _ fun g => g.takeDescriptor b _ _)
  | assigned b => exact lawful_of_next e (h.onBranch b _ fun g => g.takeAssigned b _)
  | empty b => exact lawful_of_next e (h.onBranch b _ fun g => g.takeEmpty b)
  | identifyTimerExpiry b => exact lawful_of_next e (h.identifyTimeout b)
  | chainbreak b => exact lawful_of_next e (h.onBranch b _ fun g => g.takeBreak b _)
  | chainmend b => exact lawful_of_next e (h.onBranch b _ fun g => g.takeMend b)
  | attention b =>
    exact lawful_of_next e (h.onBranch b _ fun g => g.of_outline (State.outline_takeAttention _ b _ _))
  | branchClearSent => exact execBranchClearSent_lawful h e
  | hushSent => exact execHushSent_lawful h e
  | branchFrameSent => exact execBranchFrameSent_lawful h e
  | drainComplete b => exact lawful_of_next e (h.judgeDrain b)
  | wakeTimerExpiry => exact execWakeTimerExpiry_lawful h e
  | rePresentTimerExpiry => exact execRePresentTimerExpiry_lawful h e
  | managementRead | managementWrite | windowEntryWrite | configurationWrite | rePresentIntervalWrite | managementSwap
  | enumerate | release | branchReset | dormant | wake | noticeAck | clearCounters =>
    exact lawful_of_next e (h.executeHead _)

/-- Every step keeps each branch in step with its link, where RESET is not asserted while U is UP. -/
theorem step_lawful (hu : s.ResetHoldsU) (h : s.BranchesLawful) (e : step s = .next t) : t.BranchesLawful := by
  unfold step at e
  split at e
  · unfold State.idle at e
    split at e
    · exact exec_lawful hu h e
    · exact lawful_of_next e (h.of_outline rfl)
  · rename_i c rest _
    have popped : State.BranchesLawful { s with pending := rest } := h.of_outline rfl
    exact exec_lawful (s := { s with pending := rest }) hu popped e

end

/-- Settles O56: the branches and their links stay in step, a lawful upstream side seeing to it that RESET is not asserted
while U is UP. -/
theorem stepKeepsBranchesLawful : Obligations.StepKeepsBranchesLawful :=
  fun _ _ hu h e => step_lawful hu.resetHoldsU h e

end Sys2Proof.Machine

namespace Sys2Proof.Machine

open Sys2Proof

/-! ### The steps of an enumeration (R98, R100, R102, R106) -/

section

variable (s : State) (b : Branch)

theorem State.beginStep_eq : s.beginStep b = s.setBr b { s.br b with
    enumeration := .running .identify (s.now + Config.identifyTimer)
    unsent := (s.br b).unsent ++ (if (s.br b).port.link = .up then [.identify] else []) } := by
  rw [State.beginStep, State.hand_eq, State.updBr_eq, State.br_setBr, State.setBr_setBr]

theorem State.startEnumeration_eq : s.startEnumeration b = s.setBr b { s.br b with
    outcome := .none
    chain := { (s.br b).chain with enumerations := (s.br b).chain.enumerations + 1 }
    enumeration := .running .identify (s.now + Config.identifyTimer)
    unsent := (s.br b).unsent ++ (if (s.br b).port.link = .up then [.identify] else []) } := by
  rw [State.startEnumeration, State.beginStep_eq, State.updBr_eq, State.br_setBr, State.setBr_setBr]
  rfl

/-- An enumeration ends with its record at a position replaced (R106). -/
theorem State.setRecord_endEnumeration (p : Position) (r : Record) (o : EnumOutcome) :
    (s.setRecord b p r).endEnumeration b o = State.raise (.enum b) (s.setBr b { s.br b with
      records := (s.br b).records.set p.val r p.isLt
      enumeration := .idle
      outcome := o }) := by
  rw [State.endEnumeration, State.stopEnumeration, State.setRecord, State.updBr_updBr, State.updBr_eq]

/-- A range is given at a position, on a link that is UP (R102). -/
theorem State.assignRange_eq (p : Position) (m : Member) (base : Word) (hup : (s.br b).port.link = .up) :
    s.assignRange b p m base = s.setBr b { s.br b with
      records := (s.br b).records.set p.val (.identified m base) p.isLt
      enumeration := .running (.assign p) (s.now + Config.identifyTimer)
      unsent := (s.br b).unsent ++ [.assign base] } := by
  rw [State.assignRange, State.setRecord, State.updBr_updBr, State.hand_eq, State.updBr_eq, State.br_setBr,
    State.setBr_setBr, if_pos hup]

end

section

variable {s : State} {b : Branch}

/-- A link that is UP takes frames (R190). -/
theorem BranchUnit.takesFrames_of_up {u : BranchUnit} (h : u.port.link = .up) : u.takesFrames = true := by
  simp [BranchUnit.takesFrames, h]

theorem State.onBranch_taken (h : (s.br b).takesFrames = true) (take : State → State) :
    s.onBranch b take = take (s.goodFrameOn b) :=
  if_pos h

/-! ### The frames of an enumeration, by its phase (R101 to R104, R107) -/

/-- No DESCRIPTOR and no EMPTY is awaited outside an identify phase. -/
theorem State.take_of_not_identify (h : (s.br b).enumeration = .idle ∨ ∃ p d, (s.br b).enumeration = .running (.assign p) d)
    (m : Member) (hop : Byte) : s.takeDescriptor b m hop = s.countUnexpected b ∧ s.takeEmpty b = s.countUnexpected b := by
  rcases h with h | ⟨p, d, h⟩ <;> exact ⟨by rw [State.takeDescriptor, h], by rw [State.takeEmpty, h]⟩

/-- No ASSIGNED is awaited outside an assign phase. -/
theorem State.takeAssigned_of_not_assign (h : (s.br b).enumeration = .idle ∨ ∃ d, (s.br b).enumeration = .running .identify d)
    (hop : Byte) : s.takeAssigned b hop = s.countUnexpected b := by
  rcases h with h | ⟨d, h⟩ <;> rw [State.takeAssigned, h]

theorem State.takeEmpty_awaited {d : Time} (h : (s.br b).enumeration = .running .identify d) :
    s.takeEmpty b = s.endEnumeration b .done := by
  rw [State.takeEmpty, h]

theorem State.takeDescriptor_beyond {d : Time} (h : (s.br b).enumeration = .running .identify d) (m : Member) {hop : Byte}
    (hp : 7 < hop.toNat) : s.takeDescriptor b m hop = s.endEnumeration b .tooMany := by
  rw [State.takeDescriptor, h]
  dsimp only
  rw [hopPosition_none hp]

theorem State.takeDescriptor_at {d : Time} (h : (s.br b).enumeration = .running .identify d) (m : Member) {hop : Byte}
    {p : Position} (hp : hop.toNat = p.val) : s.takeDescriptor b m hop = s.takeDescriptorAt b p m := by
  rw [State.takeDescriptor, h]
  dsimp only
  rw [hopPosition_some hp]

theorem State.takeDescriptorAt_assigned {p : Position} {m : Member} {base : Word} (h : s.record b p = .assigned m base)
    (n : Member) : s.takeDescriptorAt b p n = s.endEnumeration b .conflict := by
  rw [State.takeDescriptorAt, h]

/-- A LOST record gives its range back to the member that had it (R96). -/
theorem State.takeDescriptorAt_reclaims {p : Position} {m : Member} {base : Word} (h : (s.record b p).reclaims m base) :
    s.takeDescriptorAt b p m = State.assignRange b p m base
      (s.updBr b fun u => { u with chain := { u.chain with reclaimed := u.chain.reclaimed + 1 } }) := by
  obtain ⟨old, hr, hi, hk⟩ := h
  rw [State.takeDescriptorAt, hr]
  simp only [Record.reclaimBase?, hi, hk, and_self, if_true]

/-- A record that reclaims nothing and is not in use has its member placed (R95, R102). -/
theorem State.takeDescriptorAt_places {p : Position} {m : Member} (h : ∀ base, ¬(s.record b p).reclaims m base)
    (ha : (s.record b p).isAssigned = false) : s.takeDescriptorAt b p m = s.placeMember b p m := by
  unfold State.takeDescriptorAt
  cases hr : s.record b p with
  | assigned => simp [hr, Record.isAssigned] at ha
  | vacant | identified | unplaced => rfl
  | lost old range =>
    have none : (Record.lost old range).reclaimBase? m = none := by
      unfold Record.reclaimBase?
      dsimp only
      split
      · rename_i hm
        obtain ⟨hi, hk⟩ := hm
        cases range with
        | none => rfl
        | some base => exact absurd ⟨old, hr, hi, hk⟩ (h base)
      · rfl
    dsimp only
    rw [none]

end

/-- Settles O35: what is not awaited is counted, and what ends an enumeration is judged by its hop count and the record there. -/
theorem framesThatEndOrMissAStep : Obligations.FramesThatEndOrMissAStep := by
  rintro b cls identity k flags hop s takes _ rfl _ rfl _ rfl
  have phase := s.goodFrameOn_enumeration b
  have took : ∀ take, (.next (s.onBranch b take) : Host.Outcome State Fault Refusal) = .next (take (s.goodFrameOn b)) :=
    fun take => congrArg Host.Outcome.next (State.onBranch_taken takes take)
  refine ⟨fun h => ?_, fun h => ?_, fun d h => ⟨?_, fun beyond => ?_, fun p hp ha => ?_⟩⟩
  · rw [← phase] at h
    exact ⟨(took _).trans (congrArg _ (State.take_of_not_identify h _ hop).1),
      (took _).trans (congrArg _ (State.take_of_not_identify h ⟨cls, identity, k, flags⟩ hop).2)⟩
  · rw [← phase] at h
    exact (took _).trans (congrArg _ (State.takeAssigned_of_not_assign h hop))
  · exact (took _).trans (congrArg _ (State.takeEmpty_awaited (phase.trans h)))
  · exact (took _).trans (congrArg _ (State.takeDescriptor_beyond (phase.trans h) _ beyond))
  · obtain ⟨m, base, hr⟩ := ha
    refine (took _).trans (congrArg _ ?_)
    rw [State.takeDescriptor_at (phase.trans h) _ hp,
      State.takeDescriptorAt_assigned ((s.goodFrameOn_record b p).trans hr)]
    rfl

/-- Settles O36: the member is given back its range, or is placed by the pool's first fit. -/
theorem descriptorIsReclaimedOrPlacedLowest : Obligations.DescriptorIsReclaimedOrPlacedLowest := by
  rintro b m hop p d s hup phase hp assigned - _ rfl _ rfl
  have up := (s.goodFrameOn_link b).trans hup
  have record := s.goodFrameOn_record b p
  have taken : exec (.descriptor b m.cls m.identity m.sizeExp m.flags hop) s =
      .next ((s.goodFrameOn b).takeDescriptorAt b p m) :=
    congrArg Host.Outcome.next ((State.onBranch_taken (BranchUnit.takesFrames_of_up hup) _).trans
      (State.takeDescriptor_at ((s.goodFrameOn_enumeration b).trans phase) m hp))
  refine ⟨fun base hr => ?_, fun hr k hk => ?_⟩
  · rw [taken, State.takeDescriptorAt_reclaims (record ▸ hr), State.assignRange_eq _ b p m base (by rw [State.br_updBr]; exact up),
      State.updBr_eq, State.br_setBr, State.setBr_setBr]
    rfl
  · subst hk
    have placed : ((s.goodFrameOn b).br b).placement p m.sizeExp.toNat = (s.br b).placement p m.sizeExp.toNat := by
      rw [State.goodFrameOn_br]; rfl
    obtain ⟨fits, full⟩ := (s.br b).placement_spec p m.sizeExp.toNat
    rw [taken, State.takeDescriptorAt_places (record ▸ hr) (record ▸ assigned), State.placeMember, placed]
    refine ⟨fun j hf hc hl => ?_, fun hn => ?_⟩
    · rw [fits j hf hc hl]
      exact congrArg Host.Outcome.next (State.assignRange_eq _ b p m _ up)
    · rw [full hn]
      exact congrArg Host.Outcome.next (State.setRecord_endEnumeration _ b p _ _)

section

variable {s : State} {b : Branch} {p : Position} {d : Time}

/-- An ASSIGNED from the working position completes its step (R103). -/
theorem State.takeAssigned_working {m : Member} {base : Word} {hop : Byte} (hup : (s.br b).port.link = .up)
    (h : (s.br b).enumeration = .running (.assign p) d) (hr : s.record b p = .identified m base) (hp : hop.toNat = p.val) :
    s.takeAssigned b hop = s.setBr b { s.br b with
      records := (s.br b).records.set p.val (.assigned m base) p.isLt
      chain := { (s.br b).chain with assigned := (s.br b).chain.assigned + 1 }
      enumeration := .running .identify (s.now + Config.identifyTimer)
      unsent := (s.br b).unsent ++ [.identify] } := by
  rw [State.takeAssigned, h]
  dsimp only
  rw [if_pos hp, State.setRecord, State.updBr_updBr, State.beginStep_eq, State.updBr_eq, State.br_setBr, State.setBr_setBr,
    if_pos hup, hr]
  rfl

/-- An ASSIGNED from any other position ends the enumeration CONFLICT (R103). -/
theorem State.takeAssigned_elsewhere {hop : Byte} (h : (s.br b).enumeration = .running (.assign p) d)
    (hp : hop.toNat ≠ p.val) : s.takeAssigned b hop = (s.setRecord b p .vacant).endEnumeration b .conflict := by
  rw [State.takeAssigned, h]
  dsimp only
  rw [if_neg hp]

theorem State.identifyTimeout_identify (h : (s.br b).enumeration = .running .identify d) :
    s.identifyTimeout b = s.runOut d fun t => t.endEnumeration b .noAnswer := by
  rw [State.identifyTimeout, h]

theorem State.identifyTimeout_assign (h : (s.br b).enumeration = .running (.assign p) d) :
    s.identifyTimeout b = s.runOut d fun t => (t.setRecord b p .vacant).endEnumeration b .noAnswer := by
  rw [State.identifyTimeout, h]

end

/-- Settles O37: an ASSIGNED is judged by the working position, and the timer by the phase it runs in. -/
theorem assignedCompletesTheStep : Obligations.AssignedCompletesTheStep := by
  refine fun b s d => ⟨?_, fun hno running => ?_, fun h hreach => ?_, fun p h hreach => ?_⟩
  · rintro p m base hop hup h hr _ rfl
    have phase := (s.goodFrameOn_enumeration b).trans h
    have taken : exec (.assigned b hop) s = .next ((s.goodFrameOn b).takeAssigned b hop) :=
      congrArg Host.Outcome.next (State.onBranch_taken (BranchUnit.takesFrames_of_up hup) _)
    refine ⟨fun hp => ?_, fun hp => ?_⟩
    · rw [taken, State.takeAssigned_working ((s.goodFrameOn_link b).trans hup) phase ((s.goodFrameOn_record b p).trans hr) hp]
      rfl
    · rw [taken, State.takeAssigned_elsewhere phase hp, State.setRecord_endEnumeration]
  · obtain ⟨phase, h⟩ := running
    refine congrArg Host.Outcome.next ?_
    cases phase with
    | identify => rw [State.identifyTimeout_identify h, State.runOut_of_not s d _ hno]
    | assign p => rw [State.identifyTimeout_assign h, State.runOut_of_not s d _ hno]
  · refine congrArg Host.Outcome.next ?_
    rw [State.identifyTimeout_identify h, State.runOut_of_reaches s d _ hreach]
    rfl
  · refine congrArg Host.Outcome.next ?_
    rw [State.identifyTimeout_assign h, State.runOut_of_reaches s d _ hreach, State.setRecord_endEnumeration]
    rfl

/-- Settles O19: the CLEAR leaves the port, and a start is judged by the branch as it stood. -/
theorem clearSentMayStartEnumeration : Obligations.ClearSentMayStartEnumeration := by
  rintro b f rest s hup hu hf _ rfl
  have sent : exec (.branchClearSent b) s = .next (State.clearSent b (s.updBr b fun u => { u with unsent := rest })) := by
    show execBranchClearSent b s = _
    rw [execBranchClearSent, hu]
    rcases hf with rfl | rfl <;> exact congrArg Host.Outcome.next (if_pos hup)
  rw [sent, State.clearSent, State.updBr_updBr, State.br_updBr]
  dsimp only
  refine ⟨fun auto idle => ?_, fun h => ?_⟩
  · rw [if_pos ⟨auto, idle⟩, State.startEnumeration_eq, State.updBr_eq, State.br_setBr, State.setBr_setBr, if_pos hup]
    rfl
  · rw [if_neg (by rintro ⟨auto, idle⟩; simp [auto, idle] at h)]
    rfl

/-- Settles O39: the mend is counted and raised, and a start is judged by the branch as the frame found it. -/
theorem chainMendMayStartEnumeration : Obligations.ChainMendMayStartEnumeration := by
  rintro b hop s takes _ _ rfl rfl
  have taken : exec (.chainmend b hop) s = .next ((s.goodFrameOn b).takeMend b) :=
    congrArg Host.Outcome.next (State.onBranch_taken takes _)
  have judged : (((s.goodFrameOn b).br b).config.autoEnumerate = true ∧ ((s.goodFrameOn b).br b).state = .active ∧
      ((s.goodFrameOn b).br b).enumeration = .idle) ↔
      (s.br b).config.autoEnumerate = true ∧ (s.br b).state = .active ∧ (s.br b).enumeration = .idle := by
    rw [State.goodFrameOn_br]
  rw [taken, State.takeMend]
  dsimp only
  rw [State.updBr_eq]
  refine ⟨fun auto hs idle => ?_, fun h => ?_⟩
  · rw [if_pos (judged.2 ⟨auto, hs, idle⟩), State.startEnumeration_eq, State.raise_now, State.setBr_now, State.raise_br,
      State.br_setBr, State.goodFrameOn_link]
    rfl
  · rw [if_neg (mt judged.1 (by rintro ⟨auto, hs, idle⟩; simp [auto, hs, idle] at h))]

end Sys2Proof.Machine

namespace Sys2Proof.Machine

open Sys2Proof

/-! ### A branch command word (R208, R212) -/

/-- The row of the command code in a branch command word (R208). -/
def branchCodeRow (code : Nat) : MgmtRow :=
  match code with
  | 1 => .enumerate
  | 2 => .release
  | 3 => .branchReset
  | 4 => .dormant
  | 5 => .wake
  | _ => .write

theorem MgmtRequest.commandRow?_branchCommand (r : MgmtRequest) (b : Branch) :
    r.commandRow? (.branchCommand b) = some (branchCodeRow ((r.wordAt (branchCommandOffset b)).toNat % 16)) := by
  show (match bitsOf (r.wordAt (branchCommandOffset b)) 3 0 with
    | 1 => some MgmtRow.enumerate
    | 2 => some .release
    | 3 => some .branchReset
    | 4 => some .dormant
    | 5 => some .wake
    | _ => some .write) = _
  rw [bitsOf_code]
  unfold branchCodeRow
  split <;> rfl

/-- A code that names no command is executed under MANAGEMENT_WRITE (assumption 11). -/
theorem branchCodeRow_unknown {code : Nat} (h : code = 0 ∨ 5 < code) : branchCodeRow code = .write := by
  unfold branchCodeRow
  split
  case h_6 => rfl
  all_goals omega

/-- The operand of a RELEASE is its position (R212). -/
theorem branchCommand_release {b : Branch} {w : Word} {p : Position} (h : w.toNat % 16 = 2) (hp : w.toNat / 16 % 8 = p.val) :
    branchCommand b w = some (.release b p) := by
  have operand : bitsOf w 6 4 = p.val := hp
  have position : Fin.ofNat 8 p.val = p := Fin.ext (Nat.mod_eq_of_lt p.isLt)
  rw [branchCommand, bitsOf_code, h, operand]
  exact congrArg (fun q => some (Command.release b q)) position

/-- A command of a branch is counted as a command, and done (R206). -/
theorem answer_countWrite_branchCommand {b : Branch} {w : Word} {c : Command} (hc : branchCommand b w = some c)
    (h : ReqHeader) (s : State) : State.answer h .ok (s.countWrite (some c)) = State.commandDone h s := by
  cases c with
  | enumerate | release | branchReset | dormant | wake | noticeAck => rfl
  | clearCounters =>
    unfold branchCommand at hc
    split at hc <;> exact nomatch hc

section

variable {s : State} {h : ReqHeader} {b : Branch} {w : Word}

/-- The write of one branch command word executes under the row of its code (R202, R208). -/
theorem exec_branchWord (hn : s.nextWrite h (0x054 + 48 * b.val) [w]) {row : MgmtRow} (hr : branchCodeRow (w.toNat % 16) = row) :
    exec row.command s = .next (s.afterHeadLeaves.carryOutWrite ⟨h, 0x054 + 48 * b.val, 1, [w]⟩) := by
  obtain ⟨hwrite, hhead⟩ := hn
  have rowed : MgmtRequest.row ⟨h, 0x054 + 48 * b.val, [w].length, [w]⟩ = row := by
    rw [MgmtRequest.row_write _ hwrite, MgmtRequest.writeRow, List.length_singleton,
      one_records _ _ _ _ (wordRecord_branchCommand b)]
    simp [MgmtRequest.commandRow?_branchCommand, branchCommandOffset, one_wordAt, hr]
  have executed := exec_write hhead hwrite
  rwa [rowed] at executed

/-- Such a write that names no command is BADENTRY (R208). -/
theorem exec_branchWord_unknown (hn : s.nextWrite h (0x054 + 48 * b.val) [w])
    (hw : w.toNat % 16 = 0 ∨ 5 < w.toNat % 16) :
    exec .managementWrite s = .next (s.afterHeadLeaves.writeRefused h .badentry) := by
  refine (exec_branchWord hn (branchCodeRow_unknown hw)).trans (congrArg Host.Outcome.next ?_)
  refine State.carryOutWrite_unknown _ h _ w _ (wordRecord_branchCommand b) rfl ?_
  exact (congrArg (branchCommand b) (one_wordAt h _ w)).trans ((branchCommand_none b w).2 ⟨_, rfl, hw⟩)

variable {c : Command} {row : MgmtRow}

/-- A branch command that its owner accepts takes effect (R206, R208). -/
theorem exec_branchWord_accepted (hn : s.nextWrite h (0x054 + 48 * b.val) [w]) (hr : branchCodeRow (w.toNat % 16) = row)
    (hc : branchCommand b w = some c) (ha : s.afterHeadLeaves.commandAccepted c = true) :
    exec row.command s = .next (State.commandDone h (s.afterHeadLeaves.applyCommand c)) := by
  refine (exec_branchWord hn hr).trans (congrArg Host.Outcome.next ?_)
  rw [State.carryOutWrite_command _ h _ w _ c (wordRecord_branchCommand b) rfl
    ((congrArg (branchCommand b) (one_wordAt h _ w)).trans hc) ha]
  exact answer_countWrite_branchCommand hc h _

/-- A branch command that its owner does not accept is REFUSED (R208). -/
theorem exec_branchWord_refused (hn : s.nextWrite h (0x054 + 48 * b.val) [w]) (hr : branchCodeRow (w.toNat % 16) = row)
    (hc : branchCommand b w = some c) (ha : s.afterHeadLeaves.commandAccepted c = false) :
    exec row.command s = .next (s.afterHeadLeaves.writeRefused h .refused) :=
  (exec_branchWord hn hr).trans (congrArg Host.Outcome.next
    (State.carryOutWrite_turnedAway _ h _ w _ c (wordRecord_branchCommand b) rfl
      ((congrArg (branchCommand b) (one_wordAt h _ w)).trans hc) ha))

end

/-- Settles O49: each command word executes under the row of its code, and its owner judges it by the branch as it stands. -/
theorem enumerateAndDormantCommands : Obligations.EnumerateAndDormantCommands := by
  rintro s h b w hn v rfl
  refine ⟨fun hw => ?_, fun hw => ?_, exec_branchWord_unknown hn⟩
  · have row : branchCodeRow (w.toNat % 16) = .enumerate := by rw [hw]; rfl
    have names : branchCommand b w = some (.enumerate b) := by simp [branchCommand, bitsOf_code, hw]
    refine ⟨fun hs hi => ?_, fun hno => ?_⟩
    · refine (exec_branchWord_accepted hn row names ((State.commandAccepted_enumerate _ b).2 ⟨hs, hi⟩)).trans ?_
      rw [State.applyCommand, State.startEnumeration_eq]
    · refine exec_branchWord_refused hn row names (Bool.eq_false_iff.2 fun ha => ?_)
      obtain ⟨hs, hi⟩ := (State.commandAccepted_enumerate _ b).1 ha
      exact hno.elim (· hs) (· hi)
  · have row : branchCodeRow (w.toNat % 16) = .dormant := by rw [hw]; rfl
    have names : branchCommand b w = some (.dormant b) := by simp [branchCommand, bitsOf_code, hw]
    refine ⟨fun hs ho hi => ?_, fun hno => ?_⟩
    · exact exec_branchWord_accepted hn row names ((State.commandAccepted_dormant _ b).2 ⟨hs, ho, hi⟩)
    · refine exec_branchWord_refused hn row names (Bool.eq_false_iff.2 fun ha => ?_)
      obtain ⟨hs, ho, hi⟩ := (State.commandAccepted_dormant _ b).1 ha
      rcases hno with hno | hno | hno
      · exact hno hs
      · exact Bool.false_ne_true (ho.symm.trans hno)
      · exact hno hi

/-! ### WAKE (R132, R136) -/

section

variable {s : State} {b : Branch}

/-- A drain is cancelled. -/
theorem State.wakeBranch_draining (hs : (s.br b).state = .draining) :
    s.wakeBranch b = s.setBr b { s.br b with state := .active, wakeLatch := false } := by
  simp [State.wakeBranch, State.updBr_eq, hs]

/-- A branch that is up, trains or wakes already loses its latch alone. -/
theorem State.wakeBranch_stays (hs : (s.br b).state = .active ∨ (s.br b).state = .down ∨ ∃ d, (s.br b).state = .waking d) :
    s.wakeBranch b = s.setBr b { s.br b with wakeLatch := false } := by
  rcases hs with hs | hs | ⟨d, hs⟩ <;> simp [State.wakeBranch, State.updBr_eq, hs]

/-- A DORMANT or FAILED branch enters WAKING. -/
theorem State.wakeBranch_wakes (hs : (s.br b).state = .dormant ∨ (s.br b).state = .failed) :
    s.wakeBranch b = (s.setBr b { s.br b with wakeLatch := false }).enterWaking b := by
  rcases hs with hs | hs <;> simp [State.wakeBranch, State.updBr_eq, hs]

/-! ### RELEASE (R110, R111) -/

variable {p : Position} {m : Member}

/-- The notice of one position is removed by its source. -/
theorem State.removeNoticesOf_position (s : State) (b : Branch) (p : Position) :
    s.removeNoticesOf b (· == p) = s.removeNotices (· == .attachment b p) := by
  have place : Source.isOf b (· == p) = (· == .attachment b p) := by
    funext src
    rw [Bool.eq_iff_iff]
    cases src with
    | self => simp [Source.isOf]
    | attachment c q => simp [Source.isOf]
  rw [State.removeNoticesOf_eq, place]

/-- The member of an ASSIGNED record is told, on a link that is UP. -/
theorem State.releaseRecord_assigned {base : Word} (hr : s.record b p = .assigned m base) :
    s.releaseRecord b p = State.removeNotices (· == .attachment b p) (s.setBr b { s.br b with
      records := (s.br b).records.set p.val .vacant p.isLt
      unsent := (s.br b).unsent ++ if (s.br b).port.link = .up then [.release base] else [] }) := by
  rw [State.releaseRecord, State.removeNoticesOf_position, hr]
  dsimp only
  rw [State.setRecord, State.hand_eq, State.updBr_eq, State.br_setBr, State.setBr_setBr]

/-- Of a LOST or UNPLACED record nothing is told. -/
theorem State.releaseRecord_known (hr : (∃ m base, s.record b p = .lost m base) ∨ ∃ m, s.record b p = .unplaced m) :
    s.releaseRecord b p = State.removeNotices (· == .attachment b p) (s.setBr b { s.br b with
      records := (s.br b).records.set p.val .vacant p.isLt
      unsent := (s.br b).unsent ++ [] }) := by
  rw [State.releaseRecord, State.removeNoticesOf_position, List.append_nil]
  rcases hr with ⟨m, base, hr⟩ | ⟨m, hr⟩ <;> rw [hr] <;> rfl

end

/-- Settles O50: WAKE is judged by the state of the branch, RELEASE by the record of the position. -/
theorem wakeAndReleaseCommands : Obligations.WakeAndReleaseCommands := by
  rintro s h b w hn v rfl
  refine ⟨fun hw => ?_, fun p hw hp _ hfreed => ?_⟩
  · have row : branchCodeRow (w.toNat % 16) = .wake := by rw [hw]; rfl
    have names : branchCommand b w = some (.wake b) := by simp [branchCommand, bitsOf_code, hw]
    have woken := exec_branchWord_accepted hn row names rfl
    refine ⟨fun hs => ?_, fun hs => ?_, fun hs hpin => ?_⟩
    · rw [← State.wakeBranch_draining hs]; exact woken
    · rw [← State.wakeBranch_stays hs]; exact woken
    · refine woken.trans ?_
      rw [State.applyCommand, State.wakeBranch_wakes hs, State.enterWaking_setBr _ b _ hpin]
      rfl
  · subst hfreed
    have row : branchCodeRow (w.toNat % 16) = .release := by rw [hw]; rfl
    have names := branchCommand_release (b := b) hw hp
    have accepted := exec_branchWord_accepted hn row names
    have refused := exec_branchWord_refused hn row names
    refine ⟨fun m base hr => ?_, fun hr => ?_, fun hr => ?_⟩
    · have judged := State.commandAccepted_release_assigned hr
      refine ⟨fun hs => ?_, fun hna hnd => ?_⟩
      · refine (accepted (judged.2 hs)).trans ?_
        rw [State.applyCommand, State.releaseRecord_assigned hr]
      · exact refused (Bool.eq_false_iff.2 fun ha => (judged.1 ha).elim hna hnd)
    · refine (accepted (State.commandAccepted_release_known hr)).trans ?_
      rw [State.applyCommand, State.releaseRecord_known hr]
    · exact refused (State.commandAccepted_release_unknown hr)

end Sys2Proof.Machine

namespace Sys2Proof.Machine

open Sys2Proof

/-! ### A write that begins with a branch's configuration record (R143, R205, R206) -/

/-- The word i of a write (R203). -/
theorem MgmtRequest.wordAt_add (r : MgmtRequest) (i : Nat) : r.wordAt (r.offset + 4 * i) = r.data.getD i 0 := by
  rw [MgmtRequest.wordAt]
  congr 1
  omega

section

variable {s : State} {r : MgmtRequest} {b : Branch} {xs : List WordRecord}

/-- The write covers branch b's whole configuration record, and then the words xs, of which none is read-only and none belongs to
a record covered in part. -/
structure MgmtRequest.Configures (r : MgmtRequest) (b : Branch) (xs : List WordRecord) : Prop where
  records : r.records = .config b 0 :: .config b 1 :: .config b 2 :: xs
  whole : r.coversWords (configOffset b) 3 = true
  plain : ∀ x ∈ xs, x ≠ .readOnly ∧ r.coversPart x = false

/-- Such a write is judged by the record and by the words after it, against the state as it stands (R205). -/
theorem State.judgeWrite_configures (s : State) (hr : r.Configures b xs) : s.judgeWrite r =
    if s.badEntry r (.config b 0) = true ∨ xs.any (s.badEntry r) = true then some .badentry
    else if s.refusedNow r (.config b 0) = true ∨ xs.any (s.refusedNow r) = true then some .refused
    else none := by
  obtain ⟨records, whole, plain⟩ := hr
  have part : xs.any r.coversPart = false := List.any_eq_false.2 fun x hx => by simp [(plain x hx).2]
  have writable : WordRecord.readOnly ∉ xs := fun hx => (plain _ hx).1 rfl
  have word : ∀ j, r.coversPart (.config b j) = false := fun j => by simp [MgmtRequest.coversPart, whole]
  have bad : ∀ j, s.badEntry r (.config b j) = s.badEntry r (.config b 0) := fun _ => rfl
  have refused : ∀ j, s.refusedNow r (.config b j) = s.refusedNow r (.config b 0) := fun _ => rfl
  rw [State.judgeWrite_eq (by rw [records]; simpa using writable), records]
  simp only [List.any_cons, word, part, bad 1, bad 2, refused 1, refused 2, Bool.or_false, Bool.false_eq_true, if_false,
    Bool.or_self_left, Bool.or_eq_true]

/-- It sets the configuration first (R206). -/
theorem State.carryOutWrite_configures (hr : r.Configures b xs) (hj : s.judgeWrite r = none) :
    s.carryOutWrite r = State.answer r.hdr .ok (State.countWrite (xs.findSome? r.command?)
      (xs.foldl (State.applyRecord r) (s.setBr b { s.br b with config := r.configFor b }))) := by
  unfold State.carryOutWrite
  rw [hj, hr.records]
  rfl

end

/-! ### The two writes of the row (assumption 11) -/

section

variable {h : ReqHeader} {b : Branch} {data : List Word}

/-- A write from the start of branch b's configuration record on. -/
def configWrite (h : ReqHeader) (b : Branch) (data : List Word) : MgmtRequest :=
  { hdr := h, offset := 0x048 + 48 * b.val, count := data.length, data := data }

/-- The configuration that three words spell (R212). -/
def spelledConfig (w0 w1 w2 : Word) : BranchConfig :=
  { poolBase := w0
    poolExp := w1.toNat % 256
    limit := w1.toNat / 256 % 256
    autoEnumerate := w1.getLsbD 16
    replyTimeout := w2.toNat % 65536
    orphanHold := w2.toNat / 65536 }

theorem configWrite_configFor (h : ReqHeader) (b : Branch) (w0 w1 w2 : Word) (rest : List Word) :
    (configWrite h b (w0 :: w1 :: w2 :: rest)).configFor b = spelledConfig w0 w1 w2 := by
  have word := (configWrite h b (w0 :: w1 :: w2 :: rest)).wordAt_add
  have hold : bitsOf w2 31 16 = w2.toNat / 65536 := by
    have := w2.isLt
    rw [bitsOf]
    omega
  have first : (configWrite h b (w0 :: w1 :: w2 :: rest)).wordAt (configOffset b) = w0 := word 0
  have second : (configWrite h b (w0 :: w1 :: w2 :: rest)).wordAt (configOffset b + 4) = w1 := word 1
  have third : (configWrite h b (w0 :: w1 :: w2 :: rest)).wordAt (configOffset b + 8) = w2 := word 2
  rw [MgmtRequest.configFor, first, second, third, hold]
  simp [bitsOf, spelledConfig]

theorem configWrite_record (b : Branch) : wordRecord (0x048 + 48 * b.val + 4 * 0) = .config b 0 ∧
    wordRecord (0x048 + 48 * b.val + 4 * 1) = .config b 1 ∧ wordRecord (0x048 + 48 * b.val + 4 * 2) = .config b 2 ∧
    wordRecord (0x048 + 48 * b.val + 4 * 3) = .branchCommand b :=
  ⟨wordRecord_config b 0, wordRecord_config b 1, wordRecord_config b 2, by
    have offset : 0x048 + 48 * b.val + 4 * 3 = 0x054 + 48 * b.val := by omega
    rw [offset, wordRecord_branchCommand]⟩

theorem configWrite_configures (h : ReqHeader) (b : Branch) (w0 w1 w2 : Word) :
    (configWrite h b [w0, w1, w2]).Configures b [] where
  records := by
    obtain ⟨r0, r1, r2, -⟩ := configWrite_record b
    show List.map _ (List.range 3) = _
    simp only [configWrite, List.range, List.range.loop, List.map, r0, r1, r2]
  whole := by simp [MgmtRequest.coversWords, configWrite, configOffset]
  plain := nofun

theorem configWrite_configures_command (h : ReqHeader) (b : Branch) (w0 w1 w2 w3 : Word) :
    (configWrite h b [w0, w1, w2, w3]).Configures b [.branchCommand b] where
  records := by
    obtain ⟨r0, r1, r2, r3⟩ := configWrite_record b
    show List.map _ (List.range 4) = _
    simp only [configWrite, List.range, List.range.loop, List.map, r0, r1, r2, r3]
  whole := by simp [MgmtRequest.coversWords, configWrite, configOffset]
  plain := by simp [MgmtRequest.coversPart]

/-- The word after the record is the command word of the branch. -/
theorem configWrite_commandWord (h : ReqHeader) (b : Branch) (w0 w1 w2 w3 : Word) :
    (configWrite h b [w0, w1, w2, w3]).wordAt (branchCommandOffset b) = w3 := by
  have offset : branchCommandOffset b = (configWrite h b [w0, w1, w2, w3]).offset + 4 * 3 := by
    show 0x054 + 48 * b.val = 0x048 + 48 * b.val + 4 * 3
    omega
  rw [offset, MgmtRequest.wordAt_add]
  rfl

/-- The codes of the branch commands, by the rows of the table that they are executed under (R208). -/
theorem branchCodeRow_command {code : Nat} {i : Instr}
    (hi : (code, i) ∈ [(1, .enumerate), (2, .release), (3, .branchReset), (4, .dormant), (5, .wake)]) :
    (branchCodeRow code).command = i := by
  simp only [List.mem_cons, Prod.mk.injEq, List.not_mem_nil, or_false] at hi
  rcases hi with ⟨rfl, rfl⟩ | ⟨rfl, rfl⟩ | ⟨rfl, rfl⟩ | ⟨rfl, rfl⟩ | ⟨rfl, rfl⟩ <;> rfl

/-- Alone, such a write executes under CONFIGURATION_WRITE. -/
theorem MgmtRequest.Configures.writeRow_alone {r : MgmtRequest} (hr : r.Configures b []) : r.writeRow = .configuration := by
  rw [MgmtRequest.writeRow, hr.records]
  rfl

/-- With the command word, it executes under the row of its code (assumption 11). -/
theorem MgmtRequest.Configures.writeRow_command {r : MgmtRequest} (hr : r.Configures b [.branchCommand b]) :
    r.writeRow = branchCodeRow ((r.wordAt (branchCommandOffset b)).toNat % 16) := by
  have plain : ∀ j, r.commandRow? (.config b j) = none := fun _ => rfl
  rw [MgmtRequest.writeRow, hr.records]
  simp only [List.filterMap_cons, List.filterMap_nil, plain, MgmtRequest.commandRow?_branchCommand]

theorem exec_configWrite {s : State} {row : MgmtRow} (hn : s.nextWrite h (0x048 + 48 * b.val) data)
    (hrow : (configWrite h b data).writeRow = row) :
    exec row.command s = .next (s.afterHeadLeaves.carryOutWrite (configWrite h b data)) := by
  obtain ⟨hwrite, hhead⟩ := hn
  have rowed : (configWrite h b data).row = row := (MgmtRequest.row_write _ hwrite).trans hrow
  rw [← rowed]
  exact exec_write (r := configWrite h b data) hhead hwrite

end

/-! ### The judgement of the record (R94, R142, R143) -/

/-- The values that a configuration record spells lie in their ranges; the times are 16 bits each (R142). -/
def BranchConfig.Ranged (c : BranchConfig) : Prop :=
  12 ≤ c.poolExp ∧ c.poolExp ≤ 31 ∧ c.poolBase.toNat % 2 ^ c.poolExp = 0 ∧ 1 ≤ c.limit ∧ c.limit ≤ 16 ∧
    1 ≤ c.replyTimeout ∧ 1 ≤ c.orphanHold

/-- A pool other than c's cannot be set: a record is in use or an enumeration runs (R94). -/
def State.Pinned (s : State) (b : Branch) (c : BranchConfig) : Prop :=
  (c.poolBase ≠ (s.br b).config.poolBase ∨ c.poolExp ≠ (s.br b).config.poolExp) ∧
    ((s.br b).enumeration ≠ .idle ∨ ∃ p : Position, s.record b p ≠ .vacant)

section

variable {s : State} {r : MgmtRequest} {b : Branch} {c : BranchConfig}

theorem State.badEntry_config (hc : r.configFor b = c) : s.badEntry r (.config b 0) = true ↔ ¬c.Ranged := by
  have bad : s.badEntry r (.config b 0) = true ↔ (r.configFor b).inRange = false := by simp [State.badEntry]
  rw [bad, MgmtRequest.configFor_inRange, exists_eq_left, hc]
  rfl

theorem State.refusedNow_config (hc : r.configFor b = c) : s.refusedNow r (.config b 0) = true ↔ s.Pinned b c := by
  rw [State.refusedNow_iff]
  constructor
  · rintro (⟨d, j, e, _, rfl, hp⟩ | ⟨_, e, -⟩)
    · injection e with e _
      subst e
      exact hc ▸ hp
    · exact nomatch e
  · exact fun hp => .inl ⟨b, 0, rfl, c, hc.symm, hp⟩

/-- A configuration alone is judged by its ranges, then by the pool. -/
theorem State.judgeWrite_config (hr : r.Configures b []) (hc : r.configFor b = c) :
    (¬c.Ranged → s.judgeWrite r = some .badentry) ∧ (c.Ranged → s.Pinned b c → s.judgeWrite r = some .refused) ∧
      (c.Ranged → ¬s.Pinned b c → s.judgeWrite r = none) := by
  have range := State.badEntry_config (s := s) hc
  have pin := State.refusedNow_config (s := s) hc
  rw [s.judgeWrite_configures hr]
  exact ⟨fun h => if_pos (.inl (range.2 h)), fun h hp => by rw [if_neg (by simp [range, h]), if_pos (.inl (pin.2 hp))],
    fun h hp => by rw [if_neg (by simp [range, h]), if_neg (by simp [pin, hp])]⟩

/-- A configuration with a command word is BADENTRY for the sake of either, and else REFUSED for the sake of either. -/
theorem State.judgeWrite_configCommand {cmd : Command} (hr : r.Configures b [.branchCommand b]) (hc : r.configFor b = c)
    (hn : r.command? (.branchCommand b) = some cmd) :
    (¬c.Ranged → s.judgeWrite r = some .badentry) ∧
      (c.Ranged → s.Pinned b c ∨ s.commandAccepted cmd = false → s.judgeWrite r = some .refused) ∧
      (c.Ranged → ¬s.Pinned b c → s.commandAccepted cmd = true → s.judgeWrite r = none) := by
  have named : s.badEntry r (.branchCommand b) = false := by simp [State.badEntry, hn]
  have judged : s.refusedNow r (.branchCommand b) = !s.commandAccepted cmd := by simp [State.refusedNow, hn]
  have range := State.badEntry_config (s := s) hc
  have pin := State.refusedNow_config (s := s) hc
  rw [s.judgeWrite_configures hr]
  refine ⟨fun h => if_pos (.inl (range.2 h)), fun h hp => ?_, fun h hp ha => ?_⟩
  · rw [if_neg (by simp [range, h, named]), if_pos (hp.imp pin.2 fun ha => by simp [judged, ha])]
  · rw [if_neg (by simp [range, h, named]), if_neg (by simp [pin, hp, judged, ha])]

/-- A configuration with a word that names no command is BADENTRY. -/
theorem State.judgeWrite_configUnknown (hr : r.Configures b [.branchCommand b])
    (hn : r.command? (.branchCommand b) = none) : s.judgeWrite r = some .badentry := by
  have unnamed : s.badEntry r (.branchCommand b) = true := by simp [State.badEntry, hn]
  rw [s.judgeWrite_configures hr]
  exact if_pos (.inr (by simp [unnamed]))

end

/-! ### The re-present interval (R155, R212) -/

/-- The write of the interval word executes under its row. -/
theorem exec_intervalWrite {s : State} {h : ReqHeader} {w : Word} (hn : s.nextWrite h 0x014 [w]) :
    exec .rePresentIntervalWrite s = .next (s.afterHeadLeaves.carryOutWrite ⟨h, 0x014, 1, [w]⟩) := by
  obtain ⟨hwrite, hhead⟩ := hn
  have executed := exec_write hhead hwrite
  have row : MgmtRequest.row ⟨h, 0x014, [w].length, [w]⟩ = .interval := by
    rw [MgmtRequest.row_write _ hwrite, MgmtRequest.writeRow, List.length_singleton, one_records _ _ _ _ wordRecord_interval]
    rfl
  rwa [row] at executed

theorem State.judgeWrite_interval (s : State) (h : ReqHeader) (w : Word) :
    s.judgeWrite ⟨h, 0x014, 1, [w]⟩ = if 255 < w.toNat then some .badentry else none := by
  have records := one_records h 0x014 w _ wordRecord_interval
  have word : s.badEntry ⟨h, 0x014, 1, [w]⟩ .interval = decide (255 < w.toNat) :=
    congrArg (fun x : Word => decide (255 < x.toNat)) (one_wordAt h 0x014 w)
  rw [State.judgeWrite_eq (by rw [records]; simp), records]
  simp [MgmtRequest.coversPart, State.refusedNow, word]

/-- Settles O48: the record is judged by its ranges and the pool, a command with it by its owner, and both against the state as it
stands. -/
theorem configurationAndIntervalWrites : Obligations.ConfigurationAndIntervalWrites := by
  rintro s h v rfl
  refine ⟨?_, fun w hn => ⟨fun hw => ?_, fun hw => ?_⟩⟩
  · rintro b w0 w1 w2 _ rfl _ rfl _ rfl
    refine ⟨fun hn => ?_, fun w3 hn => ⟨fun hw => ?_, fun i cmd hc hi => ?_⟩⟩
    · have whole := configWrite_configures h b w0 w1 w2
      have executed := exec_configWrite hn whole.writeRow_alone
      have spelled := configWrite_configFor h b w0 w1 w2 []
      obtain ⟨bad, refused, allowed⟩ := State.judgeWrite_config (s := s.afterHeadLeaves) whole spelled
      refine ⟨fun hr => ?_, fun hr hp => ?_, fun hr hp => ?_⟩
      · exact executed.trans (congrArg _ (State.carryOutWrite_refused (bad hr)))
      · exact executed.trans (congrArg _ (State.carryOutWrite_refused (refused hr hp)))
      · refine executed.trans (congrArg Host.Outcome.next ?_)
        rw [State.carryOutWrite_configures whole (allowed hr hp), spelled]
        rfl
    · have whole := configWrite_configures_command h b w0 w1 w2 w3
      have word := configWrite_commandWord h b w0 w1 w2 w3
      have executed := exec_configWrite hn (whole.writeRow_command.trans (by rw [word, branchCodeRow_unknown hw]))
      refine executed.trans (congrArg _ (State.carryOutWrite_refused (State.judgeWrite_configUnknown whole ?_)))
      exact (congrArg (branchCommand b) word).trans ((branchCommand_none b w3).2 ⟨_, rfl, hw⟩)
    · have whole := configWrite_configures_command h b w0 w1 w2 w3
      have word := configWrite_commandWord h b w0 w1 w2 w3
      have names : (configWrite h b [w0, w1, w2, w3]).command? (.branchCommand b) = some cmd :=
        (congrArg (branchCommand b) word).trans hc
      have row : (branchCodeRow (w3.toNat % 16)).command = i := branchCodeRow_command hi
      have executed := exec_configWrite hn (whole.writeRow_command.trans (by rw [word]))
      rw [row] at executed
      have spelled := configWrite_configFor h b w0 w1 w2 [w3]
      obtain ⟨bad, refused, allowed⟩ := State.judgeWrite_configCommand (s := s.afterHeadLeaves) whole spelled names
      refine ⟨fun hr => ?_, fun hr hp => ?_, fun hr hp ha => ?_⟩
      · exact executed.trans (congrArg _ (State.carryOutWrite_refused (bad hr)))
      · exact executed.trans (congrArg _ (State.carryOutWrite_refused (refused hr hp)))
      · refine executed.trans (congrArg Host.Outcome.next ?_)
        rw [State.carryOutWrite_configures whole (allowed hr hp ha), spelled, List.findSome?_cons, names]
        dsimp only
        rw [answer_countWrite_branchCommand hc, List.foldl_cons, List.foldl_nil, State.applyRecord, names]
        rfl
  · refine (exec_intervalWrite hn).trans (congrArg Host.Outcome.next ?_)
    have judged : s.afterHeadLeaves.judgeWrite ⟨h, 0x014, 1, [w]⟩ = none := by
      rw [State.judgeWrite_interval, if_neg (by omega)]
    unfold State.carryOutWrite
    rw [judged, one_records h _ w _ wordRecord_interval]
    exact congrArg (fun x : Word => State.answer h .ok { s.afterHeadLeaves with
      interval := x.toNat
      mgmt := { s.afterHeadLeaves.mgmt with writes := s.afterHeadLeaves.mgmt.writes + 1 } }) (one_wordAt h 0x014 w)
  · refine (exec_intervalWrite hn).trans (congrArg Host.Outcome.next (State.carryOutWrite_refused ?_))
    rw [State.judgeWrite_interval, if_pos hw]

end Sys2Proof.Machine
